-- ==== Sys2Proof/Word.lean ====
section
/-!
DEFINITION. The word types of the CORE and the sizes the source fixes (spec/00_scope.md R3, R7, R8).
-/

namespace Sys2Proof

/-- A data byte: registers, timers and memory bytes are 8 bits wide (R3). -/
abbrev Byte := BitVec 8

/-- A 16-bit word: instruction words, I, PC and the stack slots (R3, R7). -/
abbrev Word := BitVec 16

/-- The 12-bit address field `nnn` of an instruction word (R72). -/
abbrev Addr12 := BitVec 12

/-- A register index, 0 to 15, with no further check (R74). -/
abbrev RegIdx := Fin 16

/-- A keypad line index, 0 to 15 (R33). -/
abbrev KeyIdx := Fin 16

/-- `MEM_SIZE` (R7, R50). -/
abbrev memSize : Nat := 4096

/-- `PROGRAM_BASE` (R8, decision D2; log entry 1). -/
abbrev programBase : Nat := 0x200

/-- `FONT_GLYPHS * FONT_BYTES`, the size of the font table (R7, R10). -/
abbrev fontSize : Nat := 80

/-- The index of the flag register VF (R21). -/
abbrev flagIdx : RegIdx := 15

end Sys2Proof
end

