-- ==== Sys2Proof/Config.lean ====
section
/-!
DEFINITION. What one machine of this spec fixes and the spec leaves open (spec/00_scope.md R9 to R12), and the
free value of the model: the random byte of a STEP that no command supplied (spec/60_exceptions.md R211).
-/

namespace Sys2Proof

/-- `DECODE_5_9`: whether the decoder checks the low nibble of `5xy_` and `9xy_` words (R11, R78, D11). -/
inductive Decode59 where
  | strict
  | lax
  deriving DecidableEq, Repr

/-- The open parameters of the CORE (R9, R10, R11). The types carry the constraints: `FONT_BASE + 80 <= PROGRAM_BASE`
is `FONT_BASE <= 432`, and the table has 80 bytes. -/
structure Config where
  /-- `FONT_BASE` (R9, D3). -/
  fontBase : Fin 433
  /-- `FONT_TABLE`: glyph `d` at bytes `5*d` to `5*d+4` (R10, D4). -/
  fontTable : Vector Byte 80
  /-- `DECODE_5_9` (R11, D11). -/
  decode59 : Decode59
  deriving DecidableEq, Repr

/-- Glyphs 0 to 7 of the default font (R44). -/
def Config.fontLow : Vector Byte 40 := #v[
  0xF0, 0x90, 0x90, 0x90, 0xF0,   0x20, 0x60, 0x20, 0x20, 0x70,
  0xF0, 0x10, 0xF0, 0x80, 0xF0,   0xF0, 0x10, 0xF0, 0x10, 0xF0,
  0x90, 0x90, 0xF0, 0x10, 0x10,   0xF0, 0x80, 0xF0, 0x10, 0xF0,
  0xF0, 0x80, 0xF0, 0x90, 0xF0,   0xF0, 0x10, 0x20, 0x40, 0x40]

/-- Glyphs 8 to F of the default font (R44). -/
def Config.fontHigh : Vector Byte 40 := #v[
  0xF0, 0x90, 0xF0, 0x90, 0xF0,   0xF0, 0x90, 0xF0, 0x10, 0xF0,
  0xF0, 0x90, 0xF0, 0x90, 0x90,   0xE0, 0x90, 0xE0, 0x90, 0xE0,
  0xF0, 0x80, 0x80, 0x80, 0xF0,   0xE0, 0x90, 0x90, 0x90, 0xE0,
  0xF0, 0x80, 0xF0, 0x80, 0xF0,   0xF0, 0x80, 0xF0, 0x80, 0x80]

/-- The default `FONT_TABLE` the spec offers (R44; general knowledge, log entry 3). -/
def Config.defaultFont : Vector Byte 80 := Config.fontLow ++ Config.fontHigh

/-- The parameters of the reset state: the common start state of spec/95_test_vectors.md, `FONT_BASE = 0x000`, the default
font, `DECODE_5_9 = STRICT` (log entries 2, 3 and 4: DESIGN CHOICE, unsafe). Statements over all states hold for every `Config`. -/
def Config.default : Config :=
  { fontBase := 0, fontTable := Config.defaultFont, decode59 := .strict }

/-- The random byte of the STEP numbered `n`, where no queued command supplies one: a free draw (R211, D10, U5). It has no
body that a proof can see (log entry 6). -/
opaque Config.freeRand : Nat → Byte

/-- `SCHED_ORDER`: which due step the host dispatches first when both are due (R12, R216, D20). -/
inductive SchedOrder where
  | stepFirst
  | tickFirst
  deriving DecidableEq, Repr

/-- The host-side parameters, which no CORE rule reads (R12), and the unit in which the host's clock counts. That
CPU_HZ is a whole number of Hz, and that times and MAX_SLICE are whole numbers of clock units, is the model's choice (log entry 20:
DESIGN CHOICE); the spec gives no type for them. -/
structure HostConfig where
  /-- How many units of the wall clock make one second. -/
  clockHz : Nat
  /-- `CPU_HZ`, the instruction cadence (R218; 800 in the source's scenario). -/
  cpuHz : Nat
  /-- `MAX_SLICE`, the clamp on one advance, in units of the wall clock (R215). -/
  maxSlice : Nat
  /-- `SCHED_ORDER` (R216). -/
  order : SchedOrder
  deriving DecidableEq, Repr

/-- `TIMER_HZ = 60` (R218, D21). -/
abbrev timerHz : Nat := 60

end Sys2Proof
end

