-- ==== Sys2Proof/Syntax.lean ====
section
/-!
DEFINITION. The instructions of the CORE, one constructor per row of spec/opcode_table.json, with the operand fields already
extracted (spec/30_encoding.md R72 to R76, R83).
-/

namespace Sys2Proof

/-- One constructor per row of the opcode table. Register fields are indices, `kk` a byte, `nnn` a 12-bit address and `n` a count
(R73, R74). The shifts keep the `y` field that they ignore (R133), so that no bit of their word is lost. -/
inductive Instr where
  | cls
  | ret
  | sys (nnn : Addr12)
  | jp (nnn : Addr12)
  | call (nnn : Addr12)
  | seImm (x : RegIdx) (kk : Byte)
  | sneImm (x : RegIdx) (kk : Byte)
  | seReg (x y : RegIdx)
  | ldImm (x : RegIdx) (kk : Byte)
  | addImm (x : RegIdx) (kk : Byte)
  | ldReg (x y : RegIdx)
  | orReg (x y : RegIdx)
  | andReg (x y : RegIdx)
  | xorReg (x y : RegIdx)
  | addReg (x y : RegIdx)
  | subReg (x y : RegIdx)
  | shr (x y : RegIdx)
  | subn (x y : RegIdx)
  | shl (x y : RegIdx)
  | sneReg (x y : RegIdx)
  | ldI (nnn : Addr12)
  | jpV0 (nnn : Addr12)
  | rnd (x : RegIdx) (kk : Byte)
  | drw (x y : RegIdx) (n : Fin 16)
  | skp (x : RegIdx)
  | sknp (x : RegIdx)
  | ldVxDt (x : RegIdx)
  | ldVxK (x : RegIdx)
  | ldDtVx (x : RegIdx)
  | ldStVx (x : RegIdx)
  | addI (x : RegIdx)
  | ldF (x : RegIdx)
  | ldB (x : RegIdx)
  | ldMemVx (x : RegIdx)
  | ldVxMem (x : RegIdx)
  deriving DecidableEq, Repr

end Sys2Proof
end

