-- ==== Sys2Proof/Decode.lean ====
section
/-!
DEFINITION. Decoding and encoding of instruction words (spec/30_encoding.md R71 to R83), and the byte order of a fetched word
(spec/20_memory.md R52).
-/

namespace Sys2Proof

/-! ## Fields (R72) -/

/-- `op`: `w[15:12]`. -/
def opField (w : Word) : BitVec 4 := w.extractLsb' 12 4

/-- `x`: `w[11:8]`. -/
def xField (w : Word) : RegIdx := (w.extractLsb' 8 4).toFin

/-- `y`: `w[7:4]`. -/
def yField (w : Word) : RegIdx := (w.extractLsb' 4 4).toFin

/-- `n`: `w[3:0]`. -/
def nField (w : Word) : Fin 16 := (w.extractLsb' 0 4).toFin

/-- `kk`: `w[7:0]`. -/
def kkField (w : Word) : Byte := w.extractLsb' 0 8

/-- `nnn`: `w[11:0]`. -/
def nnnField (w : Word) : Addr12 := w.extractLsb' 0 12

/-! ## Byte order (R52): the first byte is the high one -/

/-- `MemRead(PC) : MemRead(PC+1)`. -/
def wordOfBytes (hi lo : Byte) : Word := hi ++ lo

/-- The byte of a word at the lower address. -/
def highByte (w : Word) : Byte := w.extractLsb' 8 8

/-- The byte of a word at the higher address. -/
def lowByte (w : Word) : Byte := w.extractLsb' 0 8

/-! ## Decoding (R76 to R81) -/

/-- Why a word is no instruction, by name: an unknown opcode of one of the families that have a selector (R78 to R81), or too
few bytes for a word (R71). -/
inductive Reject where
  /-- `5xyn` with `n != 0` under STRICT (R78). -/
  | unknown5
  /-- `8xyn` with an `n` that selects no instruction (R79). -/
  | unknown8
  /-- `9xyn` with `n != 0` under STRICT (R78). -/
  | unknown9
  /-- `Exkk` with a `kk` that selects no instruction (R80). -/
  | unknownE
  /-- `Fxkk` with a `kk` that selects no instruction (R80). -/
  | unknownF
  /-- Fewer than the two bytes of a word. -/
  | truncated
  deriving DecidableEq, Repr

/-- Family 0 is decided by the whole word (R77). -/
def decode0 (w : Word) : Instr :=
  if w = 0x00E0#16 then .cls
  else if w = 0x00EE#16 then .ret
  else .sys (nnnField w)

/-- Whether the decoder takes the low nibble of a `5xyn` or `9xyn` word (R78). -/
def takesNibble (m : Decode59) (n : Fin 16) : Bool :=
  match m with
  | .strict => n == 0
  | .lax => true

/-- Family 8 is selected by the low nibble (R79). -/
def decode8 (x y n : Fin 16) : Except Reject Instr :=
  if n = 0x0 then .ok (.ldReg x y)
  else if n = 0x1 then .ok (.orReg x y)
  else if n = 0x2 then .ok (.andReg x y)
  else if n = 0x3 then .ok (.xorReg x y)
  else if n = 0x4 then .ok (.addReg x y)
  else if n = 0x5 then .ok (.subReg x y)
  else if n = 0x6 then .ok (.shr x y)
  else if n = 0x7 then .ok (.subn x y)
  else if n = 0xE then .ok (.shl x y)
  else .error .unknown8

/-- Family E is selected by the low byte (R80). -/
def decodeE (x : RegIdx) (kk : Byte) : Except Reject Instr :=
  if kk = 0x9E#8 then .ok (.skp x)
  else if kk = 0xA1#8 then .ok (.sknp x)
  else .error .unknownE

/-- Family F is selected by the low byte (R80). -/
def decodeF (x : RegIdx) (kk : Byte) : Except Reject Instr :=
  if kk = 0x07#8 then .ok (.ldVxDt x)
  else if kk = 0x0A#8 then .ok (.ldVxK x)
  else if kk = 0x15#8 then .ok (.ldDtVx x)
  else if kk = 0x18#8 then .ok (.ldStVx x)
  else if kk = 0x1E#8 then .ok (.addI x)
  else if kk = 0x29#8 then .ok (.ldF x)
  else if kk = 0x33#8 then .ok (.ldB x)
  else if kk = 0x55#8 then .ok (.ldMemVx x)
  else if kk = 0x65#8 then .ok (.ldVxMem x)
  else .error .unknownF

/-- The opcode map: `op` first, then the selector of the family (R76). -/
def decode (m : Decode59) (w : Word) : Except Reject Instr :=
  if opField w = 0x0#4 then .ok (decode0 w)
  else if opField w = 0x1#4 then .ok (.jp (nnnField w))
  else if opField w = 0x2#4 then .ok (.call (nnnField w))
  else if opField w = 0x3#4 then .ok (.seImm (xField w) (kkField w))
  else if opField w = 0x4#4 then .ok (.sneImm (xField w) (kkField w))
  else if opField w = 0x5#4 then
    if takesNibble m (nField w) then .ok (.seReg (xField w) (yField w)) else .error .unknown5
  else if opField w = 0x6#4 then .ok (.ldImm (xField w) (kkField w))
  else if opField w = 0x7#4 then .ok (.addImm (xField w) (kkField w))
  else if opField w = 0x8#4 then decode8 (xField w) (yField w) (nField w)
  else if opField w = 0x9#4 then
    if takesNibble m (nField w) then .ok (.sneReg (xField w) (yField w)) else .error .unknown9
  else if opField w = 0xA#4 then .ok (.ldI (nnnField w))
  else if opField w = 0xB#4 then .ok (.jpV0 (nnnField w))
  else if opField w = 0xC#4 then .ok (.rnd (xField w) (kkField w))
  else if opField w = 0xD#4 then .ok (.drw (xField w) (yField w) (nField w))
  else if opField w = 0xE#4 then decodeE (xField w) (kkField w)
  else decodeF (xField w) (kkField w)

/-- Decoding of a byte string: the first instruction and the bytes after it. Every instruction is two bytes (R71). -/
def decodeBytes (m : Decode59) : List Byte → Except Reject (Instr × List Byte)
  | hi :: lo :: rest => (decode m (wordOfBytes hi lo)).map fun i => (i, rest)
  | [_] => .error .truncated
  | [] => .error .truncated

/-! ## Encoding, from the formats of R75 and the rows of R76 -/

/-- Format `NNN`: `oooo nnnn nnnn nnnn`. -/
def encNNN (op : BitVec 4) (nnn : Addr12) : Word := op ++ nnn

/-- Formats `XKK` and `XS`: `oooo xxxx kkkk kkkk`. -/
def encXKK (op : BitVec 4) (x : RegIdx) (kk : Byte) : Word := op ++ BitVec.ofFin (w := 4) x ++ kk

/-- Formats `XYS` and `XYN`: `oooo xxxx yyyy nnnn`. -/
def encXYN (op : BitVec 4) (x y n : Fin 16) : Word :=
  op ++ BitVec.ofFin (w := 4) x ++ BitVec.ofFin (w := 4) y ++ BitVec.ofFin (w := 4) n

/-- The word of an instruction. -/
def encode : Instr → Word
  | .cls => 0x00E0#16
  | .ret => 0x00EE#16
  | .sys nnn => encNNN 0x0#4 nnn
  | .jp nnn => encNNN 0x1#4 nnn
  | .call nnn => encNNN 0x2#4 nnn
  | .seImm x kk => encXKK 0x3#4 x kk
  | .sneImm x kk => encXKK 0x4#4 x kk
  | .seReg x y => encXYN 0x5#4 x y 0x0
  | .ldImm x kk => encXKK 0x6#4 x kk
  | .addImm x kk => encXKK 0x7#4 x kk
  | .ldReg x y => encXYN 0x8#4 x y 0x0
  | .orReg x y => encXYN 0x8#4 x y 0x1
  | .andReg x y => encXYN 0x8#4 x y 0x2
  | .xorReg x y => encXYN 0x8#4 x y 0x3
  | .addReg x y => encXYN 0x8#4 x y 0x4
  | .subReg x y => encXYN 0x8#4 x y 0x5
  | .shr x y => encXYN 0x8#4 x y 0x6
  | .subn x y => encXYN 0x8#4 x y 0x7
  | .shl x y => encXYN 0x8#4 x y 0xE
  | .sneReg x y => encXYN 0x9#4 x y 0x0
  | .ldI nnn => encNNN 0xA#4 nnn
  | .jpV0 nnn => encNNN 0xB#4 nnn
  | .rnd x kk => encXKK 0xC#4 x kk
  | .drw x y n => encXYN 0xD#4 x y n
  | .skp x => encXKK 0xE#4 x 0x9E#8
  | .sknp x => encXKK 0xE#4 x 0xA1#8
  | .ldVxDt x => encXKK 0xF#4 x 0x07#8
  | .ldVxK x => encXKK 0xF#4 x 0x0A#8
  | .ldDtVx x => encXKK 0xF#4 x 0x15#8
  | .ldStVx x => encXKK 0xF#4 x 0x18#8
  | .addI x => encXKK 0xF#4 x 0x1E#8
  | .ldF x => encXKK 0xF#4 x 0x29#8
  | .ldB x => encXKK 0xF#4 x 0x33#8
  | .ldMemVx x => encXKK 0xF#4 x 0x55#8
  | .ldVxMem x => encXKK 0xF#4 x 0x65#8

/-- The two bytes of an instruction as memory holds them, the lower address first (R52). -/
def encodeBytes (i : Instr) : List Byte := [highByte (encode i), lowByte (encode i)]

/-- The mask and the match of the instruction's row in spec/opcode_table.json, copied from its columns. -/
def opcodeRow : Instr → Word × Word
  | .cls => (0xFFFF, 0x00E0)
  | .ret => (0xFFFF, 0x00EE)
  | .sys _ => (0xF000, 0x0000)
  | .jp _ => (0xF000, 0x1000)
  | .call _ => (0xF000, 0x2000)
  | .seImm _ _ => (0xF000, 0x3000)
  | .sneImm _ _ => (0xF000, 0x4000)
  | .seReg _ _ => (0xF00F, 0x5000)
  | .ldImm _ _ => (0xF000, 0x6000)
  | .addImm _ _ => (0xF000, 0x7000)
  | .ldReg _ _ => (0xF00F, 0x8000)
  | .orReg _ _ => (0xF00F, 0x8001)
  | .andReg _ _ => (0xF00F, 0x8002)
  | .xorReg _ _ => (0xF00F, 0x8003)
  | .addReg _ _ => (0xF00F, 0x8004)
  | .subReg _ _ => (0xF00F, 0x8005)
  | .shr _ _ => (0xF00F, 0x8006)
  | .subn _ _ => (0xF00F, 0x8007)
  | .shl _ _ => (0xF00F, 0x800E)
  | .sneReg _ _ => (0xF00F, 0x9000)
  | .ldI _ => (0xF000, 0xA000)
  | .jpV0 _ => (0xF000, 0xB000)
  | .rnd _ _ => (0xF000, 0xC000)
  | .drw _ _ _ => (0xF000, 0xD000)
  | .skp _ => (0xF0FF, 0xE09E)
  | .sknp _ => (0xF0FF, 0xE0A1)
  | .ldVxDt _ => (0xF0FF, 0xF007)
  | .ldVxK _ => (0xF0FF, 0xF00A)
  | .ldDtVx _ => (0xF0FF, 0xF015)
  | .ldStVx _ => (0xF0FF, 0xF018)
  | .addI _ => (0xF0FF, 0xF01E)
  | .ldF _ => (0xF0FF, 0xF029)
  | .ldB _ => (0xF0FF, 0xF033)
  | .ldMemVx _ => (0xF0FF, 0xF055)
  | .ldVxMem _ => (0xF0FF, 0xF065)

/-! ## The host's question -/

/-- The bits of a table word as the 16-bit word of the instruction, the bits above `nbits` zero. -/
def tableWord (nbits w : Nat) : Word := BitVec.ofNat 16 (w % 2 ^ nbits)

/-- The instruction the decoder reads from a word of the opcode table, laid out big-endian, with the default parameters
(`DECODE_5_9 = STRICT`; log entry 4). -/
def decodeTableWord (nbits w : Nat) : Option Instr :=
  match decodeBytes Config.default.decode59 [highByte (tableWord nbits w), lowByte (tableWord nbits w)] with
  | .ok (i, _) => some i
  | .error _ => none

end Sys2Proof
end

