-- ==== Sys2Proof/Machine/State.lean ====
section
/-!
DEFINITION. The state of the CORE as plain data (spec/10_state.md), the commands of its interface (spec/60_exceptions.md R225),
the ways a step of the model could stop, and the state RESET gives (R41).
-/

namespace Sys2Proof.Machine

/-- `FAULT_CAUSE` (R39, R202): the spec's faults. They are state of the CORE, entered by `raiseFault`, and no stop of the model. -/
inductive FaultCause where
  /-- The reset value. -/
  | none
  /-- Every STEP, `PC + 1 >= 4096` at fetch. -/
  | fetchRange
  /-- DRW, LD B, LD [I] and LD Vx, [I], an accessed address `>= 4096`. -/
  | memRange
  /-- CALL with SP = 16. -/
  | stackOverflow
  /-- RET with SP = 0. -/
  | stackUnderflow
  /-- SKP and SKNP with `V[x] > 0xF`. -/
  | keyRange
  deriving DecidableEq, Repr

/-- The stops of a step. There is none: every fault of the spec is a next state whose fault fields are set (R201, R203), so no
meaning and no step raises one, which is neither safe nor unsafe. -/
inductive Fault where
  deriving DecidableEq, Repr

/-- Why the model gives an instruction no meaning. -/
inductive Refusal where
  /-- Raised by an arm of exec whose instruction has no meaning yet, with its mnemonic: safe. No arm of this model raises it. -/
  | notModelled (mnemonic : String)
  deriving DecidableEq, Repr

/-- The DIAG event of one unknown word: its address `a` and the word `w` (R207, R225). -/
structure Diag where
  addr : Word
  word : Word
  deriving DecidableEq, Repr

/-- What the current STEP carries in and out, none of it architectural state that a later STEP reads: the random byte of the
command (R211), the current opcode `w` (R38, transient) and the DIAG output of the last STEP (R207, R226). -/
structure StepPort where
  rand : Byte
  opcode : Word
  diag : Option Diag
  deriving DecidableEq, Repr

/-- The commands of the CORE's interface (R225). -/
inductive Command where
  | reset
  | load (img : List Byte)
  | step (rand : Byte)
  | tick
  | keySet (k : KeyIdx) (pressed : Bool)
  deriving DecidableEq, Repr

/-- Memory as the list of its bytes that differ from what RESET leaves there, addresses rising (R37, R50; log entry 8). -/
abbrev Memory := List Host.Cell

/-- The framebuffer `FB[y][x]`: 32 rows of 64 pixels, `true` = on (R35). -/
abbrev Screen := Vector (Vector Bool 64) 32

/-- The state of the CORE, and below it what the model adds. -/
structure State where
  /-- `V[0]` to `V[15]` (R20). -/
  v : Vector Byte 16
  /-- The index register I (R27). -/
  i : Word
  /-- The program counter (R24). -/
  pc : Word
  /-- The stack pointer, 0 to 16: the number of slots in use (R29). -/
  sp : Fin 17
  /-- `STACK[0]` to `STACK[15]` (R29). -/
  stack : Vector Word 16
  /-- The delay timer (R31). -/
  dt : Byte
  /-- The sound timer (R31). -/
  st : Byte
  /-- The keypad lines `KEY[0]` to `KEY[15]`, `true` = pressed (R33). -/
  keys : Vector Bool 16
  /-- The framebuffer (R35). -/
  fb : Screen
  /-- The 4096 bytes of memory (R37). -/
  mem : Memory
  /-- `FAULTED` (R39). -/
  faulted : Bool
  /-- `FAULT_CAUSE` (R39). -/
  faultCause : FaultCause
  /-- `FAULT_PC` (R39). -/
  faultPc : Word
  /-- What the last STEP carried in and out (R38, R207, R211; log entries 15 and 16). -/
  port : StepPort
  /-- The model's own: the open parameters of this machine (R9 to R11). No step writes it (log entry 5). -/
  config : Config
  /-- The model's own: the commands the host issues next, oldest first (R213, R225). An empty list means that the host issues
  STEP (log entry 7). -/
  inbox : List Command
  /-- The model's own: the number of STEPs executed, the argument of the free draw (R211; log entry 6). -/
  draws : Nat
  deriving DecidableEq, Repr

/-- The state RESET gives a machine with the parameters `c` (R41, R240). Memory lists nothing: every byte reads as RESET leaves
it, zero but for the font (`Memory.unlisted`). -/
def State.resetFor (c : Config) : State :=
  { v := Vector.replicate 16 0
    i := 0
    pc := BitVec.ofNat 16 programBase
    sp := 0
    stack := Vector.replicate 16 0
    dt := 0
    st := 0
    keys := Vector.replicate 16 false
    fb := Vector.replicate 32 (Vector.replicate 64 false)
    mem := []
    faulted := false
    faultCause := .none
    faultPc := 0
    port := { rand := 0, opcode := 0, diag := none }
    config := c
    inbox := []
    draws := 0 }

/-- The machine right after RESET, with the default parameters. -/
def State.reset : State := State.resetFor Config.default

end Sys2Proof.Machine
end

