-- ==== Sys2Proof/Machine/Ops.lean ====
section
/-!
DEFINITION. The named operations over memory, the stack, the framebuffer and the program counter, raising a fault, the
diagnostic, and the fetch (spec/20_memory.md, spec/60_exceptions.md R201 and R207, spec/30_encoding.md R70).
-/

namespace Sys2Proof.Machine

/-! ## Memory -/

/-- What an address that the list does not hold reads as: the byte RESET leaves there (R41, R42, R57). -/
def Memory.unlisted (c : Config) (a : Nat) : Byte :=
  if h : c.fontBase.val ≤ a ∧ a < c.fontBase.val + fontSize then
    c.fontTable[a - c.fontBase.val]'(by simp only [fontSize] at h; omega)
  else 0

/-- The byte listed at an address, if one is. -/
def Memory.lookup : Memory → Nat → Option Byte
  | [], _ => none
  | (b, u) :: rest, a => if a = b then some u else Memory.lookup rest a

/-- The list with an address holding a byte, addresses rising. -/
def Memory.insert : Memory → Nat → Byte → Memory
  | [], a, u => [(a, u)]
  | (b, w) :: rest, a, u =>
    if a < b then (a, u) :: (b, w) :: rest
    else if a = b then (a, u) :: rest
    else (b, w) :: Memory.insert rest a u

/-- The list without an address. -/
def Memory.erase (m : Memory) (a : Nat) : Memory := m.filter fun p => p.1 != a

/-- `MemRead(a, 1)` for an address in range. -/
def Memory.get (c : Config) (m : Memory) (a : Nat) : Byte := (m.lookup a).getD (Memory.unlisted c a)

/-- `MemWrite(a, 1, u)`. An address beyond the memory has no byte to write; every instruction checks its addresses first
(R13, R55; log entry 8). -/
def Memory.set (c : Config) (m : Memory) (a : Nat) (u : Byte) : Memory :=
  if a < memSize then
    if u = Memory.unlisted c a then m.erase a else m.insert a u
  else m

/-- The one form in which a memory is written: addresses strictly rising, all of them in range, and no entry equal to what an
unlisted address reads as. -/
abbrev Memory.wf (c : Config) (m : Memory) : Prop :=
  m.Pairwise (fun p q => p.1 < q.1) ∧ ∀ p ∈ m, p.1 < memSize ∧ p.2 ≠ Memory.unlisted c p.1

/-- The byte at an address. -/
def State.readByte (s : State) (a : Nat) : Byte := Memory.get s.config s.mem a

/-- The state with a byte written. -/
def State.writeByte (s : State) (a : Nat) (u : Byte) : State :=
  { s with mem := Memory.set s.config s.mem a u }

/-- `n` bytes from an address up. -/
def State.readBytes (s : State) (a n : Nat) : List Byte := (List.range n).map fun k => s.readByte (a + k)

/-- Bytes written one after another at rising addresses (R53). -/
def State.writeBytes (s : State) (a : Nat) : List Byte → State
  | [] => s
  | u :: rest => (s.writeByte a u).writeBytes (a + 1) rest

/-- Every address of an access of `len` bytes from `a` is in memory; an address is computed with no wrap-around (R55). -/
def inMemory (a len : Nat) : Bool := decide (len = 0 ∨ a + len ≤ memSize)

/-! ## Faults and the diagnostic -/

/-- The address of the instruction being executed: PC holds it plus 2 (R25; log entry 22). -/
def State.instrAddr (s : State) : Word := s.pc - 2

/-- `raise Fault(cause)` at the instruction at address `a` (R201). There is no handler, no saved context and no return: only
RESET leaves the faulted state (R203, R206; log entry 11). -/
def raiseFault (cause : FaultCause) (a : Word) (s : State) : State :=
  { s with faulted := true, faultCause := cause, faultPc := a, pc := a }

/-- The code of a fault cause (R202). -/
def FaultCause.code : FaultCause → Nat
  | .none => 0
  | .fetchRange => 1
  | .memRange => 2
  | .stackOverflow => 3
  | .stackUnderflow => 4
  | .keyRange => 5

/-- `signal Unknown(w)` for the instruction being executed (R207; log entry 15). -/
def signalUnknown (w : Word) (s : State) : State :=
  { s with port := { s.port with diag := some { addr := s.instrAddr, word := w } } }

/-! ## Program counter and stack -/

/-- `pc <- target`. -/
def State.jump (s : State) (target : Word) : State := { s with pc := target }

/-- `if cond: pc <- PC + 2` (R100). -/
def State.skipIf (s : State) (cond : Bool) : State := if cond then s.jump (s.pc + 2) else s

/-- The value of a stack slot. -/
def State.slot (s : State) (k : Fin 16) : Word := s.stack[k]

/-- `STACK[SP] <- w; SP <- SP + 1`, where a slot is free (R30, R104). -/
def State.push (s : State) (w : Word) : Option State :=
  if h : s.sp.val < 16 then
    some { s with stack := s.stack.set s.sp.val w h, sp := ⟨s.sp.val + 1, by omega⟩ }
  else none

/-- `SP <- SP - 1` and the value of the slot at the new pointer, where a slot is in use; the slot is not cleared (R30, R101). -/
def State.pop (s : State) : Option (State × Word) :=
  if h : 0 < s.sp.val then
    some ({ s with sp := ⟨s.sp.val - 1, by omega⟩ }, s.stack[s.sp.val - 1]'(by omega))
  else none

/-! ## Framebuffer -/

/-- `FB[y][x]`. -/
def Screen.pixel (fb : Screen) (y : Fin 32) (x : Fin 64) : Bool := fb[y][x]

/-- `FB[y][x] <- FB[y][x] ^ 1`. -/
def Screen.flip (fb : Screen) (y : Fin 32) (x : Fin 64) : Screen := fb.set y (fb[y].set x (!fb[y][x]))

/-- All pixels off. -/
def Screen.blank : Screen := Vector.replicate 32 (Vector.replicate 64 false)

/-- The pixel of a state. -/
def State.pixel (s : State) (y : Fin 32) (x : Fin 64) : Bool := s.fb.pixel y x

/-! ## Fetch -/

/-- The word at PC, big-endian, or none where `PC + 1` is beyond the memory (R52, R55, R70). -/
def State.fetchWord (s : State) : Option Word :=
  if s.pc.toNat + 1 < memSize then
    some (wordOfBytes (s.readByte s.pc.toNat) (s.readByte (s.pc.toNat + 1)))
  else none

/-- The state with a word stored where the next fetch reads it, high byte first. -/
def State.placeWord (s : State) (w : Word) : State :=
  s.writeBytes s.pc.toNat [highByte w, lowByte w]

end Sys2Proof.Machine
end

