-- ==== Sys2Proof/Machine/Operands.lean ====
section
/-!
DEFINITION. The operand forms: register fields, immediates, the address field, the index register and the keypad line named by a
register (spec/30_encoding.md R73 and R74, spec/45_keypad_timers.md).
-/

namespace Sys2Proof.Machine

/-- `V[x]` (R74). -/
def State.reg (s : State) (x : RegIdx) : Byte := s.v[x]

/-- `V[x] <- u`. No register is hardwired (R20). -/
def State.setReg (s : State) (x : RegIdx) (u : Byte) : State := { s with v := s.v.set x u }

/-- `I <- w`, which sets no flag (R27). -/
def State.setIndex (s : State) (w : Word) : State := { s with i := w }

/-- `zext_16(nnn)` (R73). -/
def zextAddr (nnn : Addr12) : Word := nnn.setWidth 16

/-- The unbounded address `I + k` of a data access (R55). -/
def State.indexAddr (s : State) (k : Nat) : Nat := s.i.toNat + k

/-- The keypad line selected by a byte, or none where no line has that index (R180). -/
def State.keyLine (s : State) (k : Byte) : Option Bool :=
  if h : k.toNat < 16 then some (s.keys[k.toNat]'h) else none

/-- The least pressed keypad line, found by a scan in index order (R183). -/
def State.firstPressed (s : State) : Option KeyIdx := (List.finRange 16).find? fun k => s.keys[k]

/-- `V[0]` to `V[x]`, the registers of a block store (R154). -/
def State.regsUpTo (s : State) (x : RegIdx) : List Byte := s.v.toList.take (x.val + 1)

/-- `V[0]` to `V[x]` loaded with the bytes from `a` up, the other registers kept (R155). -/
def State.loadRegs (s : State) (x : RegIdx) (a : Nat) : State :=
  { s with v := Vector.ofFn fun j : Fin 16 => if j.val ≤ x.val then s.readByte (a + j.val) else s.v[j] }

/-- The hundreds, tens and units digits of a byte (R153). -/
def bcdDigits (u : Byte) : List Byte :=
  [BitVec.ofNat 8 (u.toNat / 100), BitVec.ofNat 8 (u.toNat / 10 % 10), BitVec.ofNat 8 (u.toNat % 10)]

/-- `FONT_BASE + 5 * V[x]`, not masked (R152; log entry 13). -/
def glyphAddr (c : Config) (u : Byte) : Word := BitVec.ofNat 16 (c.fontBase.val + 5 * u.toNat)

end Sys2Proof.Machine
end

