-- ==== Sys2Proof/Machine/Commands.lean ====
section
/-!
DEFINITION. The commands of the CORE's interface other than STEP, and its outputs (spec/60_exceptions.md R212, R220 to R226,
spec/70_reset_and_hazards.md R240 to R246).
-/

namespace Sys2Proof.Machine

/-- One timer's decrement, gated by its own non-zero test (R212). -/
def countDown (t : Byte) : Byte := if t = 0 then 0 else t - 1

/-- TICK (R212): frozen while the CORE is faulted (R203, D34). -/
def tickTimers (s : State) : State :=
  if s.faulted then s else { s with dt := countDown s.dt, st := countDown s.st }

/-- LOAD (R243): an image longer than the memory from PROGRAM_BASE on is refused and writes nothing (R244, D22;
log entry 9); no other state changes. It is accepted in the faulted state, since R203 freezes STEP and TICK only (log entry 10). -/
def loadImage (img : List Byte) (s : State) : State :=
  if programBase + img.length > memSize then s else s.writeBytes programBase img

/-- KEY_SET (R220): the host writes one keypad line, in the faulted state too (R203). -/
def keySet (k : KeyIdx) (pressed : Bool) (s : State) : State := { s with keys := s.keys.set k pressed }

/-- RESET (R240), accepted in any state: every piece of the CORE's state takes its reset value. The machine keeps what is not
the CORE's: its parameters, the host's further commands and the count of draws (log entry 17). -/
def resetCore (s : State) : State :=
  { State.resetFor s.config with inbox := s.inbox, draws := s.draws }

/-! ## Outputs -/

/-- `SOUND` (R222). -/
def State.sound (s : State) : Bool := s.st != 0

/-- The linear framebuffer read port, address `y * 64 + x` (R221, D23; log entry 21). -/
def State.fbPort (s : State) (a : Fin 2048) : Bool :=
  s.pixel ⟨a.val / 64, by omega⟩ ⟨a.val % 64, by omega⟩

/-- `FAULTED`, the code of `FAULT_CAUSE`, and `FAULT_PC` (R226). -/
def State.faultPort (s : State) : Bool × Nat × Word := (s.faulted, s.faultCause.code, s.faultPc)

end Sys2Proof.Machine
end

