-- ==== Sys2Proof/Machine/Flags.lean ====
section
/-!
DEFINITION. The results and flags of the flag-writing ALU instructions, computed on unbounded naturals and narrowed at the end
(spec/42_alu.md R120, R121, R128 to R132), and the order in which result and flag are written.
-/

namespace Sys2Proof.Machine

/-- A flag value: 1 or 0. -/
def flagByte (f : Bool) : Byte := if f then 1 else 0

/-- The result and the flag of an ALU operation. -/
structure AluOut where
  result : Byte
  flag : Bool
  deriving DecidableEq, Repr

/-- The low 8 bits of `a + b` and whether the 9-bit sum exceeds 255 (R128). -/
def aluAdd (a b : Byte) : AluOut :=
  { result := BitVec.ofNat 8 (a.toNat + b.toNat), flag := decide (a.toNat + b.toNat > 255) }

/-- `(a - b) mod 256` and whether no borrow occurs, `a >= b` (R129; R131 with the operands exchanged). -/
def aluSub (a b : Byte) : AluOut :=
  { result := BitVec.ofInt 8 ((a.toNat : Int) - (b.toNat : Int)), flag := decide (a.toNat ≥ b.toNat) }

/-- `a >> 1` and the bit shifted out, bit 0 (R130). -/
def aluShr (a : Byte) : AluOut :=
  { result := a >>> 1, flag := a.getLsbD 0 }

/-- `(a << 1) mod 256` and the bit shifted out, bit 7 (R132). -/
def aluShl (a : Byte) : AluOut :=
  { result := a <<< 1, flag := a.getLsbD 7 }

/-- `V[x] <- r`, and after it `V[0xF] <- f`: where x is 0xF the flag stays and the result is lost (R121; log entry 12). -/
def State.writeAlu (s : State) (x : RegIdx) (o : AluOut) : State :=
  (s.setReg x o.result).setReg flagIdx (flagByte o.flag)

end Sys2Proof.Machine
end

