-- ==== Sys2Proof/Machine/Alu.lean ====
section
/-!
DEFINITION. The meanings of the register loads and the ALU instructions (spec/42_alu.md).
-/

namespace Sys2Proof.Machine

/-- LD Vx, kk (R122). -/
def execLdImm (x : RegIdx) (kk : Byte) (s : State) : Host.Outcome State Fault Refusal :=
  .next (s.setReg x kk)

/-- ADD Vx, kk (R123): modulo 256, no flag. -/
def execAddImm (x : RegIdx) (kk : Byte) (s : State) : Host.Outcome State Fault Refusal :=
  .next (s.setReg x (s.reg x + kk))

/-- LD Vx, Vy (R124). -/
def execLdReg (x y : RegIdx) (s : State) : Host.Outcome State Fault Refusal :=
  .next (s.setReg x (s.reg y))

/-- OR Vx, Vy (R125): VF is not reset. -/
def execOrReg (x y : RegIdx) (s : State) : Host.Outcome State Fault Refusal :=
  .next (s.setReg x (s.reg x ||| s.reg y))

/-- AND Vx, Vy (R126): VF is not reset. -/
def execAndReg (x y : RegIdx) (s : State) : Host.Outcome State Fault Refusal :=
  .next (s.setReg x (s.reg x &&& s.reg y))

/-- XOR Vx, Vy (R127): VF is not reset. -/
def execXorReg (x y : RegIdx) (s : State) : Host.Outcome State Fault Refusal :=
  .next (s.setReg x (s.reg x ^^^ s.reg y))

/-- ADD Vx, Vy (R128): VF = carry. -/
def execAddReg (x y : RegIdx) (s : State) : Host.Outcome State Fault Refusal :=
  .next (s.writeAlu x (aluAdd (s.reg x) (s.reg y)))

/-- SUB Vx, Vy (R129): VF = not-borrow. -/
def execSubReg (x y : RegIdx) (s : State) : Host.Outcome State Fault Refusal :=
  .next (s.writeAlu x (aluSub (s.reg x) (s.reg y)))

/-- SHR Vx (R130): VF = the bit shifted out; the `y` field has no effect (R133). -/
def execShr (x _y : RegIdx) (s : State) : Host.Outcome State Fault Refusal :=
  .next (s.writeAlu x (aluShr (s.reg x)))

/-- SUBN Vx, Vy (R131): VF = not-borrow of `V[y] - V[x]`. -/
def execSubn (x y : RegIdx) (s : State) : Host.Outcome State Fault Refusal :=
  .next (s.writeAlu x (aluSub (s.reg y) (s.reg x)))

/-- SHL Vx (R132): VF = the bit shifted out; the `y` field has no effect (R133). -/
def execShl (x _y : RegIdx) (s : State) : Host.Outcome State Fault Refusal :=
  .next (s.writeAlu x (aluShl (s.reg x)))

/-- RND Vx, kk (R134): the random byte of the STEP, masked. -/
def execRnd (x : RegIdx) (kk : Byte) (s : State) : Host.Outcome State Fault Refusal :=
  .next (s.setReg x (s.port.rand &&& kk))

end Sys2Proof.Machine
end

