-- ==== Sys2Proof/Machine/Control.lean ====
section
/-!
DEFINITION. The meanings of the control transfers (spec/41_control.md). PC already holds `a + 2` when a meaning begins (R25, R70).
-/

namespace Sys2Proof.Machine

/-- RET (R101): underflow is a fault (D7). -/
def execRet (s : State) : Host.Outcome State Fault Refusal :=
  match s.pop with
  | some (s', target) => .next (s'.jump target)
  | none => .next (raiseFault .stackUnderflow s.instrAddr s)

/-- SYS nnn (R102): no architectural effect, and the diagnostic with the word `0nnn`. -/
def execSys (nnn : Addr12) (s : State) : Host.Outcome State Fault Refusal :=
  .next (signalUnknown (encNNN 0x0#4 nnn) s)

/-- JP nnn (R103). -/
def execJp (nnn : Addr12) (s : State) : Host.Outcome State Fault Refusal :=
  .next (s.jump (zextAddr nnn))

/-- CALL nnn (R104): PC, the return address `a + 2`, is pushed; overflow is a fault (D7). -/
def execCall (nnn : Addr12) (s : State) : Host.Outcome State Fault Refusal :=
  match s.push s.pc with
  | some s' => .next (s'.jump (zextAddr nnn))
  | none => .next (raiseFault .stackOverflow s.instrAddr s)

/-- SE Vx, kk (R105). -/
def execSeImm (x : RegIdx) (kk : Byte) (s : State) : Host.Outcome State Fault Refusal :=
  .next (s.skipIf (s.reg x == kk))

/-- SNE Vx, kk (R106). -/
def execSneImm (x : RegIdx) (kk : Byte) (s : State) : Host.Outcome State Fault Refusal :=
  .next (s.skipIf (s.reg x != kk))

/-- SE Vx, Vy (R107). -/
def execSeReg (x y : RegIdx) (s : State) : Host.Outcome State Fault Refusal :=
  .next (s.skipIf (s.reg x == s.reg y))

/-- SNE Vx, Vy (R108). -/
def execSneReg (x y : RegIdx) (s : State) : Host.Outcome State Fault Refusal :=
  .next (s.skipIf (s.reg x != s.reg y))

/-- JP V0, nnn (R109): `pc <- nnn + V[0]`, from 0x000 to 0x10FE. -/
def execJpV0 (nnn : Addr12) (s : State) : Host.Outcome State Fault Refusal :=
  .next (s.jump (zextAddr nnn + (s.reg 0).setWidth 16))

end Sys2Proof.Machine
end

