-- ==== Sys2Proof/Machine/Display.lean ====
section
/-!
DEFINITION. The sprite engine and the meanings of the display instructions (spec/44_display.md).
-/

namespace Sys2Proof.Machine

/-- The framebuffer while a sprite is drawn, and whether a set pixel has turned off so far (R171). -/
structure Canvas where
  fb : Screen
  hit : Bool
  deriving DecidableEq, Repr

/-- One bit of a sprite row: column `c` of row `r` of a sprite at origin `(x0, y0)`, XORed into the pixel at
`((x0 + c) mod 64, (y0 + r) mod 32)` if it is set; `c = 0` is bit 7 of the row (R171, R172). -/
def drawBit (x0 y0 r : Nat) (row : Byte) (k : Canvas) (c : Nat) : Canvas :=
  if row.getLsbD (7 - c) then
    let px := Fin.ofNat 64 (x0 + c)
    let py := Fin.ofNat 32 (y0 + r)
    { fb := k.fb.flip py px, hit := k.hit || k.fb.pixel py px }
  else k

/-- One sprite row, its 8 bits from the most significant on. -/
def drawRow (x0 y0 r : Nat) (row : Byte) (k : Canvas) : Canvas :=
  (List.range 8).foldl (drawBit x0 y0 r row) k

/-- The sprite rows from row `r` on. -/
def drawRows (x0 y0 : Nat) : Nat → List Byte → Canvas → Canvas
  | _, [], k => k
  | r, row :: rest, k => drawRows x0 y0 (r + 1) rest (drawRow x0 y0 r row k)

/-- The framebuffer and the collision after drawing `rows` at the origin `(vx mod 64, vy mod 32)` (R171). -/
def drawSprite (vx vy : Byte) (rows : List Byte) (fb : Screen) : Canvas :=
  drawRows (vx.toNat % 64) (vy.toNat % 32) 0 rows { fb := fb, hit := false }

/-- CLS (R170). -/
def execCls (s : State) : Host.Outcome State Fault Refusal :=
  .next { s with fb := Screen.blank }

/-- DRW Vx, Vy, n (R171): the origin is read before VF is cleared (D19; log entry 12), the rows are the `n` bytes from I up, and VF is the
collision flag (R173). -/
def execDrw (x y : RegIdx) (n : Fin 16) (s : State) : Host.Outcome State Fault Refusal :=
  if inMemory (s.indexAddr 0) n.val then
    let out := drawSprite (s.reg x) (s.reg y) (s.readBytes (s.indexAddr 0) n.val) s.fb
    .next (({ s with fb := out.fb } : State).setReg flagIdx (flagByte out.hit))
  else .next (raiseFault .memRange s.instrAddr s)

end Sys2Proof.Machine
end

