-- ==== Sys2Proof/Machine/IndexMemory.lean ====
section
/-!
DEFINITION. The meanings of the index-register and memory-transfer instructions (spec/43_index_memory.md). Every range check
precedes every write (R13), and I is not changed by a transfer (R28).
-/

namespace Sys2Proof.Machine

/-- LD I, nnn (R150). -/
def execLdI (nnn : Addr12) (s : State) : Host.Outcome State Fault Refusal :=
  .next (s.setIndex (zextAddr nnn))

/-- ADD I, Vx (R151): modulo 2^16, no flag. -/
def execAddI (x : RegIdx) (s : State) : Host.Outcome State Fault Refusal :=
  .next (s.setIndex (s.i + (s.reg x).setWidth 16))

/-- LD F, Vx (R152): `V[x]` is not masked (D18). -/
def execLdF (x : RegIdx) (s : State) : Host.Outcome State Fault Refusal :=
  .next (s.setIndex (glyphAddr s.config (s.reg x)))

/-- LD B, Vx (R153): three digits at I, I+1 and I+2. -/
def execLdB (x : RegIdx) (s : State) : Host.Outcome State Fault Refusal :=
  if inMemory (s.indexAddr 0) 3 then
    .next (s.writeBytes (s.indexAddr 0) (bcdDigits (s.reg x)))
  else .next (raiseFault .memRange s.instrAddr s)

/-- LD [I], Vx (R154): `V[0]` to `V[x]` at I up, x the field. -/
def execLdMemVx (x : RegIdx) (s : State) : Host.Outcome State Fault Refusal :=
  if inMemory (s.indexAddr 0) (x.val + 1) then
    .next (s.writeBytes (s.indexAddr 0) (s.regsUpTo x))
  else .next (raiseFault .memRange s.instrAddr s)

/-- LD Vx, [I] (R155): `V[0]` to `V[x]` from I up, x the field. -/
def execLdVxMem (x : RegIdx) (s : State) : Host.Outcome State Fault Refusal :=
  if inMemory (s.indexAddr 0) (x.val + 1) then
    .next (s.loadRegs x (s.indexAddr 0))
  else .next (raiseFault .memRange s.instrAddr s)

end Sys2Proof.Machine
end

