-- ==== Sys2Proof/Machine/KeypadTimers.lean ====
section
/-!
DEFINITION. The meanings of the keypad and timer instructions (spec/45_keypad_timers.md).
-/

namespace Sys2Proof.Machine

/-- SKP Vx (R180): a key index beyond the 16 lines is a fault (D8). -/
def execSkp (x : RegIdx) (s : State) : Host.Outcome State Fault Refusal :=
  match s.keyLine (s.reg x) with
  | some pressed => .next (s.skipIf pressed)
  | none => .next (raiseFault .keyRange s.instrAddr s)

/-- SKNP Vx (R181). -/
def execSknp (x : RegIdx) (s : State) : Host.Outcome State Fault Refusal :=
  match s.keyLine (s.reg x) with
  | some pressed => .next (s.skipIf (!pressed))
  | none => .next (raiseFault .keyRange s.instrAddr s)

/-- LD Vx, DT (R182). -/
def execLdVxDt (x : RegIdx) (s : State) : Host.Outcome State Fault Refusal :=
  .next (s.setReg x s.dt)

/-- LD Vx, K (R183): the least pressed line, or back to this instruction where none is pressed
(log entry 21). -/
def execLdVxK (x : RegIdx) (s : State) : Host.Outcome State Fault Refusal :=
  match s.firstPressed with
  | some k => .next (s.setReg x (BitVec.ofNat 8 k.val))
  | none => .next (s.jump s.instrAddr)

/-- LD DT, Vx (R184). -/
def execLdDtVx (x : RegIdx) (s : State) : Host.Outcome State Fault Refusal :=
  .next { s with dt := s.reg x }

/-- LD ST, Vx (R185). -/
def execLdStVx (x : RegIdx) (s : State) : Host.Outcome State Fault Refusal :=
  .next { s with st := s.reg x }

end Sys2Proof.Machine
end

