-- ==== Sys2Proof/Machine/Cycle.lean ====
section
/-!
DEFINITION. The STEP command (spec/30_encoding.md R70) and the dispatch of the interface's commands (spec/60_exceptions.md R225).
-/

namespace Sys2Proof.Machine

/-- The state in which a STEP with the random byte `r` begins: nothing signalled yet, one more STEP counted
(log entries 6 and 16). -/
def beginStep (r : Byte) (s : State) : State :=
  { s with port := { s.port with rand := r, diag := none }, draws := s.draws + 1 }

/-- The state in which the fetched word `w` is executed: PC advanced before executing (R24, R25, R70). -/
def advance (w : Word) (s : State) : State :=
  { s with pc := s.pc + 2, port := { s.port with opcode := w } }

/-- `execute(decode(w))`: the instruction, or the diagnostic of an unknown opcode (R81). -/
def executeWord (w : Word) (s : State) : Host.Outcome State Fault Refusal :=
  match decode s.config.decode59 w with
  | .ok i => exec i s
  | .error _ => .next (signalUnknown w s)

/-- STEP(rand) (R70): no effect while faulted; a fetch beyond the memory faults with PC unchanged. -/
def stepCore (r : Byte) (s : State) : Host.Outcome State Fault Refusal :=
  if s.faulted then .next s
  else
    match s.fetchWord with
    | none => .next (raiseFault .fetchRange s.pc (beginStep r s))
    | some w => executeWord w (advance w (beginStep r s))

/-- One command of the host (R225). -/
def perform (c : Command) (s : State) : Host.Outcome State Fault Refusal :=
  match c with
  | .reset => .next (resetCore s)
  | .load img => .next (loadImage img s)
  | .step r => stepCore r s
  | .tick => .next (tickTimers s)
  | .keySet k pressed => .next (keySet k pressed s)

/-- The next command of the host: the oldest queued one, or a STEP with a freely drawn random byte where none is queued
(R211, R213; log entries 6 and 7). -/
def nextCommand (s : State) : Command × State :=
  match s.inbox with
  | [] => (.step (Config.freeRand s.draws), s)
  | c :: rest => (c, { s with inbox := rest })

end Sys2Proof.Machine
end

