-- ==== Sys2Proof/Machine/Step.lean ====
section
/-!
DEFINITION. One step of the machine: the host's next command (spec/20_memory.md R61, spec/60_exceptions.md R213, R225).
-/

namespace Sys2Proof.Machine

/-- One step: the CORE executes the host's next command, atomically. -/
def step (s : State) : Host.Outcome State Fault Refusal :=
  perform (nextCommand s).1 (nextCommand s).2

/-- The state with the word `w` at PC and STEP as the host's next command, so that the next step of a CORE that is not faulted
fetches and runs it (log entry 18). -/
def State.withFetchWord (s : State) (nbits w : Nat) : State :=
  { s.placeWord (tableWord nbits w) with inbox := [] }

end Sys2Proof.Machine
end

