-- ==== Sys2Proof/Machine/Scheduler.lean ====
section
/-!
DEFINITION. The host's scheduler (spec/60_exceptions.md R214 to R219): the agent around the CORE that decides how many STEP and
TICK commands are issued, and in what order. It owns no state of the CORE. Times count units of the host's clock; an accumulator holds
elapsed time multiplied by its own frequency, so that one period is exactly `clockHz` and no cadence is rounded (log entry 20).
-/

namespace Sys2Proof.Machine

/-- "two independent time accumulators (one per cadence) and a last-observed wall-clock timestamp" (R214). -/
structure Scheduler where
  stepAcc : Nat
  tickAcc : Nat
  lastSeen : Nat
  deriving DecidableEq, Repr

/-- The scheduler when it starts at wall-clock time `t0`: nothing accumulated, and `t0` as the time last seen. The spec gives no
start values (log entry 20: DESIGN CHOICE). -/
def Scheduler.startAt (t0 : Nat) : Scheduler := { stepAcc := 0, tickAcc := 0, lastSeen := t0 }

/-- What the scheduler dispatches through its callback (R216). -/
inductive Dispatched where
  | instructionStep
  | timerStep
  deriving DecidableEq, Repr

/-- Add the elapsed time since the last call, clamped to MAX_SLICE, to both accumulators (R215). -/
def Scheduler.observe (h : HostConfig) (now : Nat) (k : Scheduler) : Scheduler :=
  let elapsed := min (now - k.lastSeen) h.maxSlice
  { stepAcc := k.stepAcc + elapsed * h.cpuHz, tickAcc := k.tickAcc + elapsed * timerHz, lastSeen := now }

/-- The step that is due next, if one is; SCHED_ORDER decides where both are due (R216). -/
def Scheduler.due (h : HostConfig) (k : Scheduler) : Option Dispatched :=
  match decide (h.clockHz ≤ k.stepAcc), decide (h.clockHz ≤ k.tickAcc), h.order with
  | true, true, .stepFirst => some .instructionStep
  | true, true, .tickFirst => some .timerStep
  | true, false, _ => some .instructionStep
  | false, true, _ => some .timerStep
  | false, false, _ => none

/-- Drain one period of the accumulator of a step (R216). -/
def Scheduler.drainOne (h : HostConfig) (k : Scheduler) : Dispatched → Scheduler
  | .instructionStep => { k with stepAcc := k.stepAcc - h.clockHz }
  | .timerStep => { k with tickAcc := k.tickAcc - h.clockHz }

/-- Drain until neither accumulator has a due step, at most `fuel` steps (R216). -/
def Scheduler.drain (h : HostConfig) : Nat → Scheduler → Scheduler × List Dispatched
  | 0, k => (k, [])
  | fuel + 1, k =>
    match k.due h with
    | none => (k, [])
    | some d => ((Scheduler.drain h fuel (k.drainOne h d)).1, d :: (Scheduler.drain h fuel (k.drainOne h d)).2)

/-- The number of steps due: the fuel that drains both accumulators. -/
def Scheduler.dueCount (h : HostConfig) (k : Scheduler) : Nat := k.stepAcc / h.clockHz + k.tickAcc / h.clockHz

/-- One advance of the scheduler at wall-clock time `now`: the steps it dispatches, oldest first (R215, R216). -/
def Scheduler.advance (h : HostConfig) (now : Nat) (k : Scheduler) : Scheduler × List Dispatched :=
  Scheduler.drain h ((k.observe h now).dueCount h) (k.observe h now)

/-- The sleep after an advance, in whole units of the clock: the smaller of the two remaining times to due, rounded down so that it never
passes the next due event (R217). -/
def Scheduler.sleepTime (h : HostConfig) (k : Scheduler) : Nat :=
  min ((h.clockHz - k.stepAcc) / h.cpuHz) ((h.clockHz - k.tickAcc) / timerHz)

/-- The command of a dispatched step; a STEP carries a random byte (R211). -/
def Dispatched.command (rand : Byte) : Dispatched → Command
  | .instructionStep => .step rand
  | .timerStep => .tick

/-- The host queues commands for the CORE (R213). -/
def State.submit (s : State) (cs : List Command) : State := { s with inbox := s.inbox ++ cs }

end Sys2Proof.Machine
end

