-- ==== Sys2Proof/Safety.lean ====
section
/-!
DEFINITION. The terms in which claims about the CORE are stated: frames, the fault state, the conditions of the fault table, the
pixels under a sprite, and the invariants.
-/

namespace Sys2Proof.Machine

/-! ## Frames -/

/-- The parts of the state that an instruction writes. What is not named here is unchanged. -/
structure Changes where
  regs : List RegIdx := []
  index : Bool := false
  pc : Bool := false
  stack : Bool := false
  dt : Bool := false
  st : Bool := false
  screen : Bool := false
  diag : Bool := false
  /-- The first address stored to. -/
  memFrom : Nat := 0
  /-- The number of bytes stored. -/
  memLen : Nat := 0
  deriving DecidableEq, Repr

/-- `t` differs from `s` at most in the parts `c` names. No instruction that completes writes the keypad (R34), the fault status
(R39), the inputs of the STEP or what the model adds to the state. -/
structure Frame (c : Changes) (s t : State) : Prop where
  regs : ∀ r, r ∉ c.regs → t.reg r = s.reg r
  index : c.index = false → t.i = s.i
  pc : c.pc = false → t.pc = s.pc
  stack : c.stack = false → t.sp = s.sp ∧ ∀ k, t.slot k = s.slot k
  dt : c.dt = false → t.dt = s.dt
  st : c.st = false → t.st = s.st
  screen : c.screen = false → ∀ y x, t.pixel y x = s.pixel y x
  memory : ∀ a, ¬ (c.memFrom ≤ a ∧ a < c.memFrom + c.memLen) → t.readByte a = s.readByte a
  diag : c.diag = false → t.port.diag = s.port.diag
  keys : ∀ k : KeyIdx, t.keys[k] = s.keys[k]
  fault : t.faulted = s.faulted ∧ t.faultCause = s.faultCause ∧ t.faultPc = s.faultPc
  input : t.port.rand = s.port.rand ∧ t.port.opcode = s.port.opcode
  model : t.config = s.config ∧ t.inbox = s.inbox ∧ t.draws = s.draws

/-! ## Faults -/

/-- A run that has not gone wrong (R203). -/
def State.Safe (s : State) : Prop := s.faulted = false

/-- `t` is `s` with the fault of R201 raised at the address `a`, and nothing else written. -/
def FaultedAs (cause : FaultCause) (a : Word) (s t : State) : Prop :=
  t = { s with faulted := true, faultCause := cause, faultPc := a, pc := a }

/-- The condition column of the fault table (R202) for an instruction that has been fetched. -/
def InstrFaults (s : State) : FaultCause → Instr → Prop
  | .memRange, .drw _ _ n => n.val > 0 ∧ s.i.toNat + n.val - 1 ≥ 4096
  | .memRange, .ldB _ => s.i.toNat + 2 ≥ 4096
  | .memRange, .ldMemVx x => s.i.toNat + x.val ≥ 4096
  | .memRange, .ldVxMem x => s.i.toNat + x.val ≥ 4096
  | .stackOverflow, .call _ => s.sp.val = 16
  | .stackUnderflow, .ret => s.sp.val = 0
  | .keyRange, .skp x => (s.reg x).toNat > 0xF
  | .keyRange, .sknp x => (s.reg x).toNat > 0xF
  | _, _ => False

/-- The condition under which a STEP in the state `s` faults with a cause (R202, R205): the fetch check comes first. -/
def StepFaults (s : State) (cause : FaultCause) : Prop :=
  (cause = .fetchRange ∧ s.pc.toNat + 1 ≥ 4096) ∨
  (s.pc.toNat + 1 < 4096 ∧ ∃ i, decodeBytes s.config.decode59
      [s.readByte s.pc.toNat, s.readByte (s.pc.toNat + 1)] = .ok (i, []) ∧ InstrFaults s cause i)

/-! ## Stores -/

/-- The number an address of the state `s` reads as once the numbers `stored` have been stored from `base` up. -/
def readAfterStore (s : State) (base : Nat) (stored : List Nat) (a : Nat) : Nat :=
  if base ≤ a then stored.getD (a - base) (s.readByte a).toNat else (s.readByte a).toNat

/-! ## The inputs of a STEP -/

/-- The state with another random byte supplied with the STEP (R211). -/
def State.withRand (s : State) (r : Byte) : State := { s with port := { s.port with rand := r } }

/-! ## Unknown words -/

/-- The unknown words as R81 lists them, in terms of `op`, `n` and `kk` of the word's number. -/
def UnknownWord (m : Decode59) (w : Nat) : Prop :=
  (m = .strict ∧ (w / 4096 = 5 ∨ w / 4096 = 9) ∧ w % 16 ≠ 0) ∨
  (w / 4096 = 8 ∧ w % 16 ∈ [0x8, 0x9, 0xA, 0xB, 0xC, 0xD, 0xF]) ∨
  (w / 4096 = 0xE ∧ w % 256 ∉ [0x9E, 0xA1]) ∨
  (w / 4096 = 0xF ∧ w % 256 ∉ [0x07, 0x0A, 0x15, 0x18, 0x1E, 0x29, 0x33, 0x55, 0x65])

/-! ## Sprites -/

/-- A set bit of one of the sprite's `n` rows, at `I` up in the state `s`, lands on the pixel `(y, x)` when the origin is
`(vx mod 64, vy mod 32)` (R171, R172). Column `c` is bit `7 - c` of its row. -/
def UnderSprite (s : State) (vx vy : Byte) (n : Nat) (y : Fin 32) (x : Fin 64) : Prop :=
  ∃ r c : Nat, r < n ∧ c < 8 ∧ (s.readByte (s.i.toNat + r)).getLsbD (7 - c) = true ∧
    x.val = (vx.toNat % 64 + c) % 64 ∧ y.val = (vy.toNat % 32 + r) % 32

/-! ## Invariants -/

/-- The memory is in its canonical form, and the fault status is one of the two R201 and R41 allow: no fault and nothing
recorded, or a cause with PC held at the faulting instruction. -/
structure State.Coherent (s : State) : Prop where
  memory : Memory.wf s.config s.mem
  quiet : s.faulted = false → s.faultCause = .none ∧ s.faultPc = 0
  held : s.faulted = true → s.faultCause ≠ .none ∧ s.pc = s.faultPc

/-- PC is a place that a control transfer can leave it at, and a return address is at most one past the memory: a word of
`Bnnn` reaches 0x10FE (R109), and the last word that can be fetched is at 0xFFE. -/
structure State.PcBounded (s : State) : Prop where
  pc : s.pc.toNat ≤ 0x10FE
  stack : ∀ k, (s.slot k).toNat ≤ 0x1000

/-! ## The scheduler -/

/-- How many of one kind of step a list of dispatched steps holds. -/
def stepsOf (d : Dispatched) (ds : List Dispatched) : Nat := ds.count d

/-- Advances at the wall-clock times of a list, one after another. -/
def Scheduler.advanceAll (h : HostConfig) : List Nat → Scheduler → Scheduler × List Dispatched
  | [], k => (k, [])
  | now :: rest, k =>
    ((Scheduler.advanceAll h rest (k.advance h now).1).1,
      (k.advance h now).2 ++ (Scheduler.advanceAll h rest (k.advance h now).1).2)

/-- The times of a list do not run backwards from `t0`, and no two calls lie further apart than MAX_SLICE. -/
def TimesWithin (slice : Nat) : Nat → List Nat → Prop
  | _, [] => True
  | t0, now :: rest => t0 ≤ now ∧ now - t0 ≤ slice ∧ TimesWithin slice now rest

end Sys2Proof.Machine
end

