-- ==== Sys2Proof/Certificates/Slice0/Obligations.lean ====
section
/-!
DEFINITION. The statements for the provers, file by file of spec/. "Completes" means that exec answers a next state.
-/

open Sys2Proof
open Sys2Proof.Machine

/-! ## Encoding and decoding (30_encoding.md) -/

/-- R71, R76 to R80: decoding the encoding of a well-formed instruction gives it back, with every operand, whatever DECODE_5_9
is, and leaves the bytes after its two. The selector values are log entry 14. -/
def Obligations.DecodeEncodeRoundTrip : Prop :=
  ∀ (m : Decode59) (i : Instr) (rest : List Byte), i.wellFormed = true →
    decode m (encode i) = .ok i ∧ decodeBytes m (encodeBytes i ++ rest) = .ok (i, rest)

/-- R83 under STRICT: a word that decodes is the encoding of exactly the well-formed instruction it decodes to, so no bit of it
is dropped and no two words share an instruction. STRICT is log entry 4, the selector values log entry 14. -/
def Obligations.DecodedWordEncodesBack : Prop :=
  ∀ (w : Word) (i : Instr), decode .strict w = .ok i → i.wellFormed = true ∧ encode i = w

/-- R76: the 35 rows of the opcode map, each word written from its number. The selector values are log entry 14. -/
def Obligations.EveryRowOfOpcodeMapDecodes : Prop :=
  ∀ (m : Decode59) (x y n : Fin 16) (kk : Byte) (nnn : Addr12),
    decode m 0x00E0 = .ok .cls ∧
    decode m 0x00EE = .ok .ret ∧
    (nnn.toNat ≠ 0x0E0 → nnn.toNat ≠ 0x0EE → decode m (BitVec.ofNat 16 nnn.toNat) = .ok (.sys nnn)) ∧
    decode m (BitVec.ofNat 16 (0x1000 + nnn.toNat)) = .ok (.jp nnn) ∧
    decode m (BitVec.ofNat 16 (0x2000 + nnn.toNat)) = .ok (.call nnn) ∧
    decode m (BitVec.ofNat 16 (0x3000 + 256 * x.val + kk.toNat)) = .ok (.seImm x kk) ∧
    decode m (BitVec.ofNat 16 (0x4000 + 256 * x.val + kk.toNat)) = .ok (.sneImm x kk) ∧
    decode m (BitVec.ofNat 16 (0x5000 + 256 * x.val + 16 * y.val)) = .ok (.seReg x y) ∧
    decode m (BitVec.ofNat 16 (0x6000 + 256 * x.val + kk.toNat)) = .ok (.ldImm x kk) ∧
    decode m (BitVec.ofNat 16 (0x7000 + 256 * x.val + kk.toNat)) = .ok (.addImm x kk) ∧
    decode m (BitVec.ofNat 16 (0x8000 + 256 * x.val + 16 * y.val)) = .ok (.ldReg x y) ∧
    decode m (BitVec.ofNat 16 (0x8001 + 256 * x.val + 16 * y.val)) = .ok (.orReg x y) ∧
    decode m (BitVec.ofNat 16 (0x8002 + 256 * x.val + 16 * y.val)) = .ok (.andReg x y) ∧
    decode m (BitVec.ofNat 16 (0x8003 + 256 * x.val + 16 * y.val)) = .ok (.xorReg x y) ∧
    decode m (BitVec.ofNat 16 (0x8004 + 256 * x.val + 16 * y.val)) = .ok (.addReg x y) ∧
    decode m (BitVec.ofNat 16 (0x8005 + 256 * x.val + 16 * y.val)) = .ok (.subReg x y) ∧
    decode m (BitVec.ofNat 16 (0x8006 + 256 * x.val + 16 * y.val)) = .ok (.shr x y) ∧
    decode m (BitVec.ofNat 16 (0x8007 + 256 * x.val + 16 * y.val)) = .ok (.subn x y) ∧
    decode m (BitVec.ofNat 16 (0x800E + 256 * x.val + 16 * y.val)) = .ok (.shl x y) ∧
    decode m (BitVec.ofNat 16 (0x9000 + 256 * x.val + 16 * y.val)) = .ok (.sneReg x y) ∧
    decode m (BitVec.ofNat 16 (0xA000 + nnn.toNat)) = .ok (.ldI nnn) ∧
    decode m (BitVec.ofNat 16 (0xB000 + nnn.toNat)) = .ok (.jpV0 nnn) ∧
    decode m (BitVec.ofNat 16 (0xC000 + 256 * x.val + kk.toNat)) = .ok (.rnd x kk) ∧
    decode m (BitVec.ofNat 16 (0xD000 + 256 * x.val + 16 * y.val + n.val)) = .ok (.drw x y n) ∧
    decode m (BitVec.ofNat 16 (0xE09E + 256 * x.val)) = .ok (.skp x) ∧
    decode m (BitVec.ofNat 16 (0xE0A1 + 256 * x.val)) = .ok (.sknp x) ∧
    decode m (BitVec.ofNat 16 (0xF007 + 256 * x.val)) = .ok (.ldVxDt x) ∧
    decode m (BitVec.ofNat 16 (0xF00A + 256 * x.val)) = .ok (.ldVxK x) ∧
    decode m (BitVec.ofNat 16 (0xF015 + 256 * x.val)) = .ok (.ldDtVx x) ∧
    decode m (BitVec.ofNat 16 (0xF018 + 256 * x.val)) = .ok (.ldStVx x) ∧
    decode m (BitVec.ofNat 16 (0xF01E + 256 * x.val)) = .ok (.addI x) ∧
    decode m (BitVec.ofNat 16 (0xF029 + 256 * x.val)) = .ok (.ldF x) ∧
    decode m (BitVec.ofNat 16 (0xF033 + 256 * x.val)) = .ok (.ldB x) ∧
    decode m (BitVec.ofNat 16 (0xF055 + 256 * x.val)) = .ok (.ldMemVx x) ∧
    decode m (BitVec.ofNat 16 (0xF065 + 256 * x.val)) = .ok (.ldVxMem x)

/-- Words of spec/95_test_vectors.md (W11, the vectors V-ALU and V-DEC, the programs), read right. The selector values are log
entry 14, STRICT log entry 4, that a word of family 0 other than CLS and RET is SYS log entry 15. -/
def Obligations.SampleWordsDecode : Prop :=
  decode .strict 0x6005 = .ok (.ldImm 0 0x05) ∧
  decode .strict 0x1200 = .ok (.jp 0x200) ∧
  decode .strict 0xF10A = .ok (.ldVxK 1) ∧
  decode .strict 0x8124 = .ok (.addReg 1 2) ∧
  decode .strict 0xDAB2 = .ok (.drw 0xA 0xB 2) ∧
  decode .strict 0xF265 = .ok (.ldVxMem 2) ∧
  decode .strict 0x01E0 = .ok (.sys 0x1E0) ∧
  decode .strict 0x5121 = .error .unknown5

/-- R78: the low nibble of `5xyn` and `9xyn` under STRICT and under LAX; the default parameters are STRICT. The default is log
entry 4. -/
def Obligations.LowNibbleOfFamilies5And9 : Prop :=
  ∀ (x y n : Fin 16),
    decode .lax (BitVec.ofNat 16 (0x5000 + 256 * x.val + 16 * y.val + n.val)) = .ok (.seReg x y) ∧
    decode .lax (BitVec.ofNat 16 (0x9000 + 256 * x.val + 16 * y.val + n.val)) = .ok (.sneReg x y) ∧
    (n.val ≠ 0 →
      decode .strict (BitVec.ofNat 16 (0x5000 + 256 * x.val + 16 * y.val + n.val)) = .error .unknown5 ∧
      decode .strict (BitVec.ofNat 16 (0x9000 + 256 * x.val + 16 * y.val + n.val)) = .error .unknown9) ∧
    (n.val = 0 →
      decode .strict (BitVec.ofNat 16 (0x5000 + 256 * x.val + 16 * y.val + n.val)) = .ok (.seReg x y) ∧
      decode .strict (BitVec.ofNat 16 (0x9000 + 256 * x.val + 16 * y.val + n.val)) = .ok (.sneReg x y)) ∧
    Config.default.decode59 = .strict

/-- R79, R80, R81, R83: decoding gives no instruction exactly for the words that R81 lists. The selector values are log entry
14. -/
def Obligations.UnknownWordsAreTheListed : Prop :=
  ∀ (m : Decode59) (w : Word), (∀ i, decode m w ≠ .ok i) ↔ UnknownWord m w.toNat

/-! ## The step cycle (30_encoding.md R70) -/

/-- R70, R213: when the bytes at PC decode to an instruction, step of a CORE that is not faulted is exec of it, with PC advanced
by 2, the word latched, and the random byte of the command, a free draw where no command is queued. The empty queue and the free
draw are log entries 6 and 7, the latched word log entry 16. -/
def Obligations.StepRunsDecodedInstruction : Prop :=
  ∀ (s : State) (i : Instr) (r : Byte) (rest : List Command),
    s.faulted = false → s.pc.toNat + 1 < 4096 →
    decodeBytes s.config.decode59 [s.readByte s.pc.toNat, s.readByte (s.pc.toNat + 1)] = .ok (i, []) →
    (s.inbox = [] →
      step s = exec i { s with
        pc := s.pc + 2, draws := s.draws + 1,
        port := { rand := Config.freeRand s.draws, diag := none,
                  opcode := wordOfBytes (s.readByte s.pc.toNat) (s.readByte (s.pc.toNat + 1)) } }) ∧
    (s.inbox = .step r :: rest →
      step s = exec i { s with
        pc := s.pc + 2, draws := s.draws + 1, inbox := rest,
        port := { rand := r, diag := none,
                  opcode := wordOfBytes (s.readByte s.pc.toNat) (s.readByte (s.pc.toNat + 1)) } })

/-- R52, R70: a STEP whose fetch is in range fetches the big-endian word at PC, whatever it does then. -/
def Obligations.FetchIsBigEndian : Prop :=
  ∀ (s : State) (r : Byte), s.faulted = false → s.pc.toNat + 1 < 4096 →
    ∃ t, perform (.step r) s = .next t ∧
      t.port.opcode.toNat = 256 * (s.readByte s.pc.toNat).toNat + (s.readByte (s.pc.toNat + 1)).toNat

/-- R26, R55: a STEP at a PC for which PC + 1 is beyond the memory faults with FETCH_RANGE; PC and all else are as before. That
this is a fault, and a next state, is log entry 11. -/
def Obligations.FetchBeyondMemoryFaults : Prop :=
  ∀ (s : State) (r : Byte), s.faulted = false → s.pc.toNat + 1 ≥ 4096 →
    ∃ t, perform (.step r) s = .next t ∧
      FaultedAs .fetchRange s.pc { s with port := t.port, draws := t.draws } t ∧ t.port.diag = none

/-- R81, R207, R208: a STEP at an unknown word leaves PC at `a + 2`, emits DIAG `(a, w)` and changes nothing else. The DIAG
event is log entry 15. -/
def Obligations.UnknownOpcodeIsDiagnosedAndSkipped : Prop :=
  ∀ (s : State) (r : Byte) (w : Word), s.faulted = false → s.pc.toNat + 1 < 4096 →
    w.toNat = 256 * (s.readByte s.pc.toNat).toNat + (s.readByte (s.pc.toNat + 1)).toNat →
    UnknownWord s.config.decode59 w.toNat →
    perform (.step r) s = .next { s with
      pc := s.pc + 2, draws := s.draws + 1,
      port := { rand := r, opcode := w, diag := some { addr := s.pc, word := w } } }

/-- R82, R83, R200: no state and no command stops the machine: every step answers a next state. That a fault of the spec is a
next state is log entry 11, that a refused LOAD is one log entry 9. -/
def Obligations.EveryStepAnswersNext : Prop :=
  ∀ s : State, ∃ t, step s = .next t

/-! ## Control transfer (41_control.md) -/

/-- R105 to R108 with R100: the four conditional skips complete in every state; PC, which holds `a + 2`, advances 2 more exactly
when the condition holds, and nothing else changes. The selector values are log entry 14. -/
def Obligations.ConditionalSkips : Prop :=
  ∀ (s : State) (x y : RegIdx) (kk : Byte),
    ((encode (.seImm x kk)).toNat = 0x3000 + 256 * x.val + kk.toNat ∧
      ∃ t, exec (.seImm x kk) s = .next t ∧ Frame { pc := true } s t ∧
        (s.reg x = kk → t.pc = s.pc + 2) ∧ (s.reg x ≠ kk → t.pc = s.pc)) ∧
    ((encode (.sneImm x kk)).toNat = 0x4000 + 256 * x.val + kk.toNat ∧
      ∃ t, exec (.sneImm x kk) s = .next t ∧ Frame { pc := true } s t ∧
        (s.reg x ≠ kk → t.pc = s.pc + 2) ∧ (s.reg x = kk → t.pc = s.pc)) ∧
    ((encode (.seReg x y)).toNat = 0x5000 + 256 * x.val + 16 * y.val ∧
      ∃ t, exec (.seReg x y) s = .next t ∧ Frame { pc := true } s t ∧
        (s.reg x = s.reg y → t.pc = s.pc + 2) ∧ (s.reg x ≠ s.reg y → t.pc = s.pc)) ∧
    ((encode (.sneReg x y)).toNat = 0x9000 + 256 * x.val + 16 * y.val ∧
      ∃ t, exec (.sneReg x y) s = .next t ∧ Frame { pc := true } s t ∧
        (s.reg x ≠ s.reg y → t.pc = s.pc + 2) ∧ (s.reg x = s.reg y → t.pc = s.pc))

/-- R103, R109: the jumps complete in every state; JP goes to `nnn` and JP V0 to `nnn + V0`, an address up to 0x10FE that does
not wrap, and nothing else changes. The selector values are log entry 14. -/
def Obligations.JumpTargets : Prop :=
  ∀ (s : State) (nnn : Addr12),
    ((encode (.jp nnn)).toNat = 0x1000 + nnn.toNat ∧
      ∃ t, exec (.jp nnn) s = .next t ∧ Frame { pc := true } s t ∧ t.pc.toNat = nnn.toNat) ∧
    ((encode (.jpV0 nnn)).toNat = 0xB000 + nnn.toNat ∧
      ∃ t, exec (.jpV0 nnn) s = .next t ∧ Frame { pc := true } s t ∧ t.pc.toNat = nnn.toNat + (s.reg 0).toNat)

/-- R104: CALL with a free slot pushes PC (the return address `a + 2`) at `STACK[SP]`, adds 1 to SP and jumps to `nnn`, the
other slots and everything else unchanged; with SP = 16 it faults with STACK_OVERFLOW. The fault is log entry 11. -/
def Obligations.CallPushesReturnAddress : Prop :=
  ∀ (s : State) (nnn : Addr12),
    (encode (.call nnn)).toNat = 0x2000 + nnn.toNat ∧
    (s.sp.val < 16 → ∃ t, exec (.call nnn) s = .next t ∧ Frame { pc := true, stack := true } s t ∧
      t.sp.val = s.sp.val + 1 ∧ t.pc.toNat = nnn.toNat ∧
      ∀ k : Fin 16, (k.val = s.sp.val → t.slot k = s.pc) ∧ (k.val ≠ s.sp.val → t.slot k = s.slot k)) ∧
    (s.sp.val = 16 → ∃ t, exec (.call nnn) s = .next t ∧ FaultedAs .stackOverflow (s.pc - 2) s t)

/-- R101 with R30: RET with a slot in use subtracts 1 from SP and goes to the slot at the new pointer, which is not cleared;
with SP = 0 it faults with STACK_UNDERFLOW. The fault is log entry 11, the slot that is not cleared log entry 21. -/
def Obligations.ReturnPopsWithoutClearing : Prop :=
  ∀ s : State,
    encode .ret = 0x00EE ∧
    (s.sp.val > 0 → ∃ t, exec .ret s = .next t ∧ Frame { pc := true, stack := true } s t ∧
      t.sp.val = s.sp.val - 1 ∧ (∀ k : Fin 16, k.val = s.sp.val - 1 → t.pc = s.slot k) ∧
      ∀ k, t.slot k = s.slot k) ∧
    (s.sp.val = 0 → ∃ t, exec .ret s = .next t ∧ FaultedAs .stackUnderflow (s.pc - 2) s t)

/-- Section 8 of the source as W5 gives it: a RET from a state whose stack is as a CALL left it, at any depth 1 to 16, goes to
the address after the CALL and restores SP. -/
def Obligations.CallThenReturnRoundTrips : Prop :=
  ∀ (s t u : State) (nnn : Addr12), s.sp.val < 16 → exec (.call nnn) s = .next t →
    u.sp = t.sp → (∀ k, u.slot k = t.slot k) →
    ∃ u', exec .ret u = .next u' ∧ u'.pc = s.pc ∧ u'.sp = s.sp

/-- R102: SYS completes in every state with no architectural effect, and emits DIAG with its address and its word. That SYS has
no effect but DIAG is log entry 15. -/
def Obligations.SysOnlySignals : Prop :=
  ∀ (s : State) (nnn : Addr12),
    (encode (.sys nnn)).toNat = nnn.toNat ∧
    ∃ t, exec (.sys nnn) s = .next t ∧ Frame { diag := true } s t ∧
      ∃ d, t.port.diag = some d ∧ d.addr = s.pc - 2 ∧ d.word.toNat = nnn.toNat

/-! ## Register loads and ALU (42_alu.md) -/

/-- R122, R123: the immediate load and the immediate add, modulo 256 with no flag, complete in every state and write only
`V[x]`. -/
def Obligations.ImmediateLoadAndAdd : Prop :=
  ∀ (s : State) (x : RegIdx) (kk : Byte),
    ((encode (.ldImm x kk)).toNat = 0x6000 + 256 * x.val + kk.toNat ∧
      ∃ t, exec (.ldImm x kk) s = .next t ∧ Frame { regs := [x] } s t ∧ t.reg x = kk) ∧
    ((encode (.addImm x kk)).toNat = 0x7000 + 256 * x.val + kk.toNat ∧
      ∃ t, exec (.addImm x kk) s = .next t ∧ Frame { regs := [x] } s t ∧
        (t.reg x).toNat = ((s.reg x).toNat + kk.toNat) % 256)

/-- R124 to R127: the register copy and the bitwise operations complete in every state and write only `V[x]`; VF is not reset.
The bitwise results are given bit by bit. -/
def Obligations.CopyAndBitwise : Prop :=
  ∀ (s : State) (x y : RegIdx),
    ((encode (.ldReg x y)).toNat = 0x8000 + 256 * x.val + 16 * y.val ∧
      ∃ t, exec (.ldReg x y) s = .next t ∧ Frame { regs := [x] } s t ∧ t.reg x = s.reg y) ∧
    ((encode (.orReg x y)).toNat = 0x8001 + 256 * x.val + 16 * y.val ∧
      ∃ t, exec (.orReg x y) s = .next t ∧ Frame { regs := [x] } s t ∧
        ∀ b < 8, (t.reg x).getLsbD b = ((s.reg x).getLsbD b || (s.reg y).getLsbD b)) ∧
    ((encode (.andReg x y)).toNat = 0x8002 + 256 * x.val + 16 * y.val ∧
      ∃ t, exec (.andReg x y) s = .next t ∧ Frame { regs := [x] } s t ∧
        ∀ b < 8, (t.reg x).getLsbD b = ((s.reg x).getLsbD b && (s.reg y).getLsbD b)) ∧
    ((encode (.xorReg x y)).toNat = 0x8003 + 256 * x.val + 16 * y.val ∧
      ∃ t, exec (.xorReg x y) s = .next t ∧ Frame { regs := [x] } s t ∧
        ∀ b < 8, (t.reg x).getLsbD b = ((s.reg x).getLsbD b ^^ (s.reg y).getLsbD b))

/-- R121, R128, R129, R131: ADD, SUB and SUBN complete in every state. VF ends as the flag, also where x is 0xF; otherwise
`V[x]` is the result modulo 256; both are computed from the values before the instruction, and nothing else changes. That the
flag is written last is log entry 12. -/
def Obligations.AddAndSubtractWithFlag : Prop :=
  ∀ (s : State) (x y : RegIdx),
    ((encode (.addReg x y)).toNat = 0x8004 + 256 * x.val + 16 * y.val ∧
      ∃ t, exec (.addReg x y) s = .next t ∧ Frame { regs := [x, 0xF] } s t ∧
        t.reg 0xF = (if (s.reg x).toNat + (s.reg y).toNat > 255 then 1 else 0) ∧
        (x ≠ 0xF → (t.reg x).toNat = ((s.reg x).toNat + (s.reg y).toNat) % 256)) ∧
    ((encode (.subReg x y)).toNat = 0x8005 + 256 * x.val + 16 * y.val ∧
      ∃ t, exec (.subReg x y) s = .next t ∧ Frame { regs := [x, 0xF] } s t ∧
        t.reg 0xF = (if (s.reg x).toNat ≥ (s.reg y).toNat then 1 else 0) ∧
        (x ≠ 0xF → ((t.reg x).toNat : Int) = ((s.reg x).toNat - (s.reg y).toNat : Int) % 256)) ∧
    ((encode (.subn x y)).toNat = 0x8007 + 256 * x.val + 16 * y.val ∧
      ∃ t, exec (.subn x y) s = .next t ∧ Frame { regs := [x, 0xF] } s t ∧
        t.reg 0xF = (if (s.reg y).toNat ≥ (s.reg x).toNat then 1 else 0) ∧
        (x ≠ 0xF → ((t.reg x).toNat : Int) = ((s.reg y).toNat - (s.reg x).toNat : Int) % 256))

/-- R121, R130, R132, R133: the shifts complete in every state, on Vx alone, whatever `y` is. VF ends as the bit shifted out,
also where x is 0xF; otherwise `V[x]` is the shifted value. That the flag is written last is log entry 12, the shift in place
log entry 24. -/
def Obligations.ShiftsWithFlag : Prop :=
  ∀ (s : State) (x y : RegIdx),
    ((encode (.shr x y)).toNat = 0x8006 + 256 * x.val + 16 * y.val ∧
      ∃ t, exec (.shr x y) s = .next t ∧ Frame { regs := [x, 0xF] } s t ∧
        (t.reg 0xF).toNat = (s.reg x).toNat % 2 ∧
        (x ≠ 0xF → (t.reg x).toNat = (s.reg x).toNat / 2)) ∧
    ((encode (.shl x y)).toNat = 0x800E + 256 * x.val + 16 * y.val ∧
      ∃ t, exec (.shl x y) s = .next t ∧ Frame { regs := [x, 0xF] } s t ∧
        (t.reg 0xF).toNat = (s.reg x).toNat / 128 ∧
        (x ≠ 0xF → (t.reg x).toNat = (s.reg x).toNat * 2 % 256)) ∧
    (∀ y', exec (.shr x y) s = exec (.shr x y') s ∧ exec (.shl x y) s = exec (.shl x y') s)

/-- R134: RND completes in every state and for every random byte; `V[x]` is the byte that came with the STEP, masked, and
nothing else changes. That the byte is a free draw is log entry 6. -/
def Obligations.RandomByteMasked : Prop :=
  ∀ (s : State) (x : RegIdx) (kk : Byte),
    (encode (.rnd x kk)).toNat = 0xC000 + 256 * x.val + kk.toNat ∧
    ∃ t, exec (.rnd x kk) s = .next t ∧ Frame { regs := [x] } s t ∧
      ∀ b < 8, (t.reg x).getLsbD b = (s.port.rand.getLsbD b && kk.getLsbD b)

/-- R211: the random byte is read by RND only: two runs of any other instruction that differ in it alone differ in it alone
afterwards. That the byte is a free draw is log entry 6. -/
def Obligations.RandomByteReadOnlyByRnd : Prop :=
  ∀ (s t : State) (i : Instr) (r : Byte), (∀ x kk, i ≠ .rnd x kk) → exec i s = .next t →
    exec i (s.withRand r) = .next (t.withRand r)

/-! ## Index register and memory transfers (43_index_memory.md) -/

/-- R150 to R152: LD I, ADD I and LD F complete in every state and write only I, modulo 2^16; `V[x]` is not masked, and no flag
is set. LD F holds for every FONT_BASE. The width of I, its wrap and the missing mask are log entry 13. -/
def Obligations.IndexWrites : Prop :=
  ∀ (s : State) (x : RegIdx) (nnn : Addr12),
    ((encode (.ldI nnn)).toNat = 0xA000 + nnn.toNat ∧
      ∃ t, exec (.ldI nnn) s = .next t ∧ Frame { index := true } s t ∧ t.i.toNat = nnn.toNat) ∧
    ((encode (.addI x)).toNat = 0xF01E + 256 * x.val ∧
      ∃ t, exec (.addI x) s = .next t ∧ Frame { index := true } s t ∧
        t.i.toNat = (s.i.toNat + (s.reg x).toNat) % 65536) ∧
    ((encode (.ldF x)).toNat = 0xF029 + 256 * x.val ∧
      ∃ t, exec (.ldF x) s = .next t ∧ Frame { index := true } s t ∧
        t.i.toNat = (s.config.fontBase.val + 5 * (s.reg x).toNat) % 65536)

/-- R153: LD B with its three bytes in memory stores the hundreds, tens and units digits at I, I+1 and I+2 and changes nothing
else; otherwise it faults with MEM_RANGE. The fault is log entry 11, that I stays log entry 13. -/
def Obligations.BcdDigitsStored : Prop :=
  ∀ (s : State) (x : RegIdx),
    (encode (.ldB x)).toNat = 0xF033 + 256 * x.val ∧
    (s.i.toNat + 2 < 4096 → ∃ t, exec (.ldB x) s = .next t ∧
      Frame { memFrom := s.i.toNat, memLen := 3 } s t ∧
      (t.readByte s.i.toNat).toNat = (s.reg x).toNat / 100 ∧
      (t.readByte (s.i.toNat + 1)).toNat = (s.reg x).toNat / 10 % 10 ∧
      (t.readByte (s.i.toNat + 2)).toNat = (s.reg x).toNat % 10) ∧
    (s.i.toNat + 2 ≥ 4096 → ∃ t, exec (.ldB x) s = .next t ∧ FaultedAs .memRange (s.pc - 2) s t)

/-- R154: LD [I], Vx with its x + 1 bytes in memory stores `V[0]` to `V[x]` from I up and changes nothing else, I neither;
otherwise it faults with MEM_RANGE. The fault is log entry 11, that I stays log entry 13. -/
def Obligations.BlockStore : Prop :=
  ∀ (s : State) (x : RegIdx),
    (encode (.ldMemVx x)).toNat = 0xF055 + 256 * x.val ∧
    (s.i.toNat + x.val < 4096 → ∃ t, exec (.ldMemVx x) s = .next t ∧
      Frame { memFrom := s.i.toNat, memLen := x.val + 1 } s t ∧
      ∀ j : RegIdx, j.val ≤ x.val → t.readByte (s.i.toNat + j.val) = s.reg j) ∧
    (s.i.toNat + x.val ≥ 4096 → ∃ t, exec (.ldMemVx x) s = .next t ∧ FaultedAs .memRange (s.pc - 2) s t)

/-- R155: LD Vx, [I] with its x + 1 bytes in memory loads `V[0]` to `V[x]` from I up and changes nothing else; otherwise it
faults with MEM_RANGE. The fault is log entry 11, that I stays log entry 13. -/
def Obligations.BlockLoad : Prop :=
  ∀ (s : State) (x : RegIdx),
    (encode (.ldVxMem x)).toNat = 0xF065 + 256 * x.val ∧
    (s.i.toNat + x.val < 4096 → ∃ t, exec (.ldVxMem x) s = .next t ∧
      Frame { regs := (List.finRange 16).take (x.val + 1) } s t ∧
      ∀ j : RegIdx, (j.val ≤ x.val → t.reg j = s.readByte (s.i.toNat + j.val)) ∧
        (x.val < j.val → t.reg j = s.reg j)) ∧
    (s.i.toNat + x.val ≥ 4096 → ∃ t, exec (.ldVxMem x) s = .next t ∧ FaultedAs .memRange (s.pc - 2) s t)

/-- Section 8 of the source as W7 gives it: a block load through the same I and x from a memory that a block store left gives the
stored registers back, whatever happened to the registers in between. -/
def Obligations.BlockRoundTrip : Prop :=
  ∀ (s t u : State) (x : RegIdx), s.i.toNat + x.val < 4096 → exec (.ldMemVx x) s = .next t →
    u.i = s.i → (∀ a, u.readByte a = t.readByte a) →
    ∃ u', exec (.ldVxMem x) u = .next u' ∧ ∀ j : RegIdx, j.val ≤ x.val → u'.reg j = s.reg j

/-- R64, R248: after a block store or an LD B with its bytes in memory, the next STEP fetches the word at PC as the store left it:
each of its two bytes is the stored one where the store wrote it, whether it wrote both, one or neither, and the old one elsewhere.
That nothing stands between a store and a fetch is log entry 25. -/
def Obligations.StoreIsFetchedNext : Prop :=
  ∀ (s : State) (x : RegIdx) (r : Byte), s.faulted = false → s.pc.toNat + 1 < 4096 →
    (s.i.toNat + x.val < 4096 → ∃ t u, exec (.ldMemVx x) s = .next t ∧ perform (.step r) t = .next u ∧
      u.port.opcode.toNat =
        256 * readAfterStore s s.i.toNat (((List.finRange 16).take (x.val + 1)).map fun j => (s.reg j).toNat) s.pc.toNat +
          readAfterStore s s.i.toNat (((List.finRange 16).take (x.val + 1)).map fun j => (s.reg j).toNat) (s.pc.toNat + 1)) ∧
    (s.i.toNat + 2 < 4096 → ∃ t u, exec (.ldB x) s = .next t ∧ perform (.step r) t = .next u ∧
      u.port.opcode.toNat =
        256 * readAfterStore s s.i.toNat
            [(s.reg x).toNat / 100, (s.reg x).toNat / 10 % 10, (s.reg x).toNat % 10] s.pc.toNat +
          readAfterStore s s.i.toNat
            [(s.reg x).toNat / 100, (s.reg x).toNat / 10 % 10, (s.reg x).toNat % 10] (s.pc.toNat + 1))

/-! ## Display (44_display.md) -/

/-- R170: CLS completes in every state, turns every pixel off and changes nothing else. -/
def Obligations.ClearScreen : Prop :=
  ∀ s : State, encode .cls = 0x00E0 ∧
    ∃ t, exec .cls s = .next t ∧ Frame { screen := true } s t ∧ ∀ y x, t.pixel y x = false

/-- R171 to R173: DRW with its rows in memory inverts exactly the pixels under the sprite's set bits, wrapping on both axes,
with the origin taken from the registers before VF is written; VF is 1 exactly when such a pixel was on; nothing else changes.
With a row beyond the memory it faults with MEM_RANGE, and n = 0 never faults. The fault is log entry 11, that the operands are
read before VF is written log entry 12. -/
def Obligations.DrawXorsSprite : Prop :=
  ∀ (s : State) (x y : RegIdx) (n : Fin 16),
    (encode (.drw x y n)).toNat = 0xD000 + 256 * x.val + 16 * y.val + n.val ∧
    (n.val = 0 ∨ s.i.toNat + n.val - 1 < 4096 → ∃ t, exec (.drw x y n) s = .next t ∧
      Frame { regs := [0xF], screen := true } s t ∧
      (∀ py px, UnderSprite s (s.reg x) (s.reg y) n.val py px → t.pixel py px = !s.pixel py px) ∧
      (∀ py px, ¬ UnderSprite s (s.reg x) (s.reg y) n.val py px → t.pixel py px = s.pixel py px) ∧
      ((∃ py px, UnderSprite s (s.reg x) (s.reg y) n.val py px ∧ s.pixel py px = true) → t.reg 0xF = 1) ∧
      ((∀ py px, UnderSprite s (s.reg x) (s.reg y) n.val py px → s.pixel py px = false) → t.reg 0xF = 0)) ∧
    (n.val > 0 → s.i.toNat + n.val - 1 ≥ 4096 →
      ∃ t, exec (.drw x y n) s = .next t ∧ FaultedAs .memRange (s.pc - 2) s t)

/-- R174: a second DRW at the same position, with the same I, n and memory and the framebuffer as the first left it, restores
the framebuffer, and sets VF = 1 exactly when some pixel under a set bit was off before the first. The registers that hold the
position may be others, or be VF restored, the second time. That I stays is log entry 13. -/
def Obligations.DoubleDrawCancels : Prop :=
  ∀ (s t u : State) (x y x' y' : RegIdx) (n : Fin 16),
    n.val = 0 ∨ s.i.toNat + n.val - 1 < 4096 → exec (.drw x y n) s = .next t →
    u.reg x' = s.reg x → u.reg y' = s.reg y → u.i = s.i → (∀ a, u.readByte a = t.readByte a) →
    (∀ py px, u.pixel py px = t.pixel py px) →
    ∃ u', exec (.drw x' y' n) u = .next u' ∧ (∀ py px, u'.pixel py px = s.pixel py px) ∧
      (u'.reg 0xF = 1 ↔ ∃ py px, UnderSprite s (s.reg x) (s.reg y) n.val py px ∧ s.pixel py px = false)

/-! ## Keypad and timer instructions (45_keypad_timers.md) -/

/-- R180, R181: with a key index of 0 to 15 the key skips complete, PC advancing 2 more exactly when the line is pressed (SKP)
or released (SKNP), nothing else changing; with a larger one they fault with KEY_RANGE. The fault is log entry 11. -/
def Obligations.KeySkips : Prop :=
  ∀ (s : State) (x : RegIdx),
    (encode (.skp x)).toNat = 0xE09E + 256 * x.val ∧ (encode (.sknp x)).toNat = 0xE0A1 + 256 * x.val ∧
    (∀ k : KeyIdx, (s.reg x).toNat = k.val →
      (∃ t, exec (.skp x) s = .next t ∧ Frame { pc := true } s t ∧
        (s.keys[k] = true → t.pc = s.pc + 2) ∧ (s.keys[k] = false → t.pc = s.pc)) ∧
      (∃ t, exec (.sknp x) s = .next t ∧ Frame { pc := true } s t ∧
        (s.keys[k] = false → t.pc = s.pc + 2) ∧ (s.keys[k] = true → t.pc = s.pc))) ∧
    ((s.reg x).toNat > 0xF →
      (∃ t, exec (.skp x) s = .next t ∧ FaultedAs .keyRange (s.pc - 2) s t) ∧
      (∃ t, exec (.sknp x) s = .next t ∧ FaultedAs .keyRange (s.pc - 2) s t))

/-- R183: with a key pressed LD Vx, K completes, `V[x]` the least pressed index and nothing else changed; with none pressed it
puts PC back to its own address and changes nothing else. That a key already held ends the wait is log entry 21. -/
def Obligations.WaitForKey : Prop :=
  ∀ (s : State) (x : RegIdx),
    (encode (.ldVxK x)).toNat = 0xF00A + 256 * x.val ∧
    (∀ k : KeyIdx, s.keys[k] = true → (∀ j : KeyIdx, j < k → s.keys[j] = false) →
      ∃ t, exec (.ldVxK x) s = .next t ∧ Frame { regs := [x] } s t ∧ (t.reg x).toNat = k.val) ∧
    ((∀ k : KeyIdx, s.keys[k] = false) →
      ∃ t, exec (.ldVxK x) s = .next t ∧ Frame { pc := true } s t ∧ t.pc = s.pc - 2)

/-- R182, R184, R185 with R222: the timer instructions complete in every state; LD Vx, DT writes only `V[x]`, LD DT, Vx only DT and
LD ST, Vx only ST, and the sound output is at once 1 exactly when the value is not 0. What the sound output is, is log entry 21. -/
def Obligations.TimerReadsAndWrites : Prop :=
  ∀ (s : State) (x : RegIdx),
    ((encode (.ldVxDt x)).toNat = 0xF007 + 256 * x.val ∧
      ∃ t, exec (.ldVxDt x) s = .next t ∧ Frame { regs := [x] } s t ∧ t.reg x = s.dt) ∧
    ((encode (.ldDtVx x)).toNat = 0xF015 + 256 * x.val ∧
      ∃ t, exec (.ldDtVx x) s = .next t ∧ Frame { dt := true } s t ∧ t.dt = s.reg x) ∧
    ((encode (.ldStVx x)).toNat = 0xF018 + 256 * x.val ∧
      ∃ t, exec (.ldStVx x) s = .next t ∧ Frame { st := true } s t ∧ t.st = s.reg x ∧
        (t.sound = true ↔ (s.reg x).toNat ≠ 0))

/-! ## Whole-machine rules over the instructions (10_state.md, 20_memory.md) -/

/-- R23: the writers of the general registers. A register that an instruction changes is its Vx, or VF by a flag-writing
instruction, or one of V0 to Vx by a block load. -/
def Obligations.RegisterWriters : Prop :=
  ∀ (s t : State) (i : Instr) (r : RegIdx), exec i s = .next t → t.reg r ≠ s.reg r →
    (∃ kk, i = .ldImm r kk ∨ i = .addImm r kk ∨ i = .rnd r kk) ∨
    (∃ y, i = .ldReg r y ∨ i = .orReg r y ∨ i = .andReg r y ∨ i = .xorReg r y ∨ i = .addReg r y ∨ i = .subReg r y ∨
      i = .shr r y ∨ i = .subn r y ∨ i = .shl r y) ∨
    i = .ldVxDt r ∨ i = .ldVxK r ∨ (∃ x, i = .ldVxMem x ∧ r.val ≤ x.val) ∨
    (r = 0xF ∧ ∃ x y, i = .addReg x y ∨ i = .subReg x y ∨ i = .shr x y ∨ i = .subn x y ∨ i = .shl x y ∨
      ∃ n, i = .drw x y n)

/-- R27, R30, R32, R34, R36, R51, R64: which instructions can change I, the stack, the timers, the framebuffer and memory, and
that none changes the keypad. That the transfers keep I is log entry 13. -/
def Obligations.StateWriters : Prop :=
  ∀ (s t : State) (i : Instr), exec i s = .next t →
    (t.i ≠ s.i → (∃ nnn, i = .ldI nnn) ∨ ∃ x, i = .addI x ∨ i = .ldF x) ∧
    ((t.sp ≠ s.sp ∨ ∃ k, t.slot k ≠ s.slot k) → i = .ret ∨ ∃ nnn, i = .call nnn) ∧
    (t.dt ≠ s.dt → ∃ x, i = .ldDtVx x) ∧
    (t.st ≠ s.st → ∃ x, i = .ldStVx x) ∧
    ((∃ y x, t.pixel y x ≠ s.pixel y x) → i = .cls ∨ ∃ x y n, i = .drw x y n) ∧
    ((∃ a, t.readByte a ≠ s.readByte a) → ∃ x, i = .ldB x ∨ i = .ldMemVx x) ∧
    (∀ k : KeyIdx, t.keys[k] = s.keys[k])

/-! ## Faults (60_exceptions.md) -/

/-- R13, R201: a STEP that faults sets the fault fields, keeps PC at the instruction and writes nothing else of the state: only
the STEP's own inputs and outputs, with no diagnostic, and the model's count of STEPs differ besides. What a fault does is log
entry 11, what the port holds log entry 16. -/
def Obligations.FaultsArePrecise : Prop :=
  ∀ (s t : State) (r : Byte), s.faulted = false → perform (.step r) s = .next t → t.faulted = true →
    t.faultCause ≠ .none ∧ t.port.diag = none ∧
    t = { s with faulted := true, faultCause := t.faultCause, faultPc := s.pc, pc := s.pc,
                 port := t.port, draws := t.draws }

/-- R202, R205: a STEP faults with a cause exactly when the condition of the fault table holds for it, and the causes have the
table's codes. The faults are log entry 11, their codes log entry 21. -/
def Obligations.StepFaultsExactlyAsTabled : Prop :=
  (∀ (s t : State) (r : Byte) (cause : FaultCause), s.faulted = false → cause ≠ .none →
    perform (.step r) s = .next t →
    ((t.faulted = true ∧ t.faultCause = cause) ↔ StepFaults s cause)) ∧
  [FaultCause.none, .fetchRange, .memRange, .stackOverflow, .stackUnderflow, .keyRange].map FaultCause.code =
    [0, 1, 2, 3, 4, 5]

/-- R203, R206: while the CORE is faulted STEP and TICK have no effect, KEY_SET still writes its line, no command but RESET
leaves the fault, and RESET leaves it. That LOAD is accepted there is log entry 10. What a fault does is log entry 11. -/
def Obligations.FaultedUntilReset : Prop :=
  ∀ (s : State), s.faulted = true →
    (∀ r, perform (.step r) s = .next s) ∧ perform .tick s = .next s ∧
    (∀ k p t, perform (.keySet k p) s = .next t → t.keys[k] = p) ∧
    (∀ c t, c ≠ .reset → perform c s = .next t →
      t.faulted = true ∧ t.faultCause = s.faultCause ∧ t.faultPc = s.faultPc ∧ t.pc = s.pc) ∧
    (∃ t, perform .reset s = .next t ∧ t.faulted = false ∧ t.faultCause = .none ∧ t.faultPc = 0)

/-! ## Timers, commands and interfaces (60_exceptions.md, 70_reset_and_hazards.md) -/

/-- R212: TICK of a CORE that is not faulted takes 1 from each timer that is not zero, never below zero, and changes nothing else. -/
def Obligations.TickDecrementsNonZeroTimers : Prop :=
  ∀ s : State,
    (s.faulted = false → ∃ t, perform .tick s = .next t ∧ Frame { dt := true, st := true } s t ∧
      t.dt.toNat = s.dt.toNat - 1 ∧ t.st.toNat = s.st.toNat - 1) ∧
    (s.faulted = true → perform .tick s = .next s)

/-- R212, R213: a TICK between the STEP that writes DT and the STEP that reads it is seen by the read. -/
def Obligations.TickBetweenWriteAndRead : Prop :=
  ∀ (s t u : State) (x y : RegIdx), s.faulted = false → exec (.ldDtVx x) s = .next t →
    perform .tick t = .next u →
    ∃ u', exec (.ldVxDt y) u = .next u' ∧ (u'.reg y).toNat = (s.reg x).toNat - 1

/-- R243, R244: LOAD of an image that fits copies it to PROGRAM_BASE up and changes nothing else; a longer one is refused and
changes nothing. The refusal is log entry 9. That this holds of a faulted CORE too is the model's own reading, log entry 10. -/
def Obligations.LoadCopiesImage : Prop :=
  ∀ (s : State) (img : List Byte),
    (0x200 + img.length ≤ 4096 → ∃ t, perform (.load img) s = .next t ∧
      Frame { memFrom := 0x200, memLen := img.length } s t ∧
      ∀ (j : Nat) (h : j < img.length), t.readByte (0x200 + j) = img[j]) ∧
    (0x200 + img.length > 4096 → perform (.load img) s = .next s)

/-- R41, R42, R240, R241: RESET, in any state, gives every element of the CORE its reset value: the font at FONT_BASE, every
other byte of memory 0, PC at 0x200, everything else zero. PROGRAM_BASE is log entry 1, what RESET keeps log entry 17. -/
def Obligations.ResetValues : Prop :=
  ∀ s : State, ∃ t, perform .reset s = .next t ∧
    (∀ x, t.reg x = 0) ∧ t.i = 0 ∧ t.pc = 0x200 ∧ t.sp = 0 ∧ (∀ k, t.slot k = 0) ∧ t.dt = 0 ∧ t.st = 0 ∧
    (∀ k : KeyIdx, t.keys[k] = false) ∧ (∀ y x, t.pixel y x = false) ∧
    (∀ (d : Fin 16) (j : Fin 5), t.readByte (s.config.fontBase.val + 5 * d.val + j.val) =
      s.config.fontTable[5 * d.val + j.val]) ∧
    (∀ a, a < s.config.fontBase.val ∨ s.config.fontBase.val + 80 ≤ a → t.readByte a = 0) ∧
    t.faulted = false ∧ t.faultCause = .none ∧ t.faultPc = 0

/-- R220: KEY_SET writes one keypad line and nothing else, in every state. A line of one bit is log entry 19. -/
def Obligations.KeySetWritesOneLine : Prop :=
  ∀ (s : State) (k : KeyIdx) (pressed : Bool), ∃ t, perform (.keySet k pressed) s = .next t ∧
    t.keys[k] = pressed ∧ (∀ j : KeyIdx, j ≠ k → t.keys[j] = s.keys[j]) ∧ t = { s with keys := t.keys }

/-- R221: the linear framebuffer port at address `y * 64 + x` reads `FB[y][x]`. The layout is log entry 21. -/
def Obligations.FramebufferPortIsRowMajor : Prop :=
  ∀ (s : State) (y : Fin 32) (x : Fin 64) (a : Fin 2048), a.val = y.val * 64 + x.val → s.fbPort a = s.pixel y x

/-- R38 of the word: a STEP that fetches reads nothing of what the STEP before it latched. That the same holds of the random byte and
of the diagnostic is the model's choice, log entries 16 and 15. -/
def Obligations.PreviousWordNeverRead : Prop :=
  ∀ (s : State) (r : Byte) (p : StepPort), s.faulted = false → s.pc.toNat + 1 < 4096 →
    perform (.step r) { s with port := p } = perform (.step r) s

/-- R225 and log entry 7: step performs the host's oldest queued command, and a STEP where none is queued, whatever the free draw
is. -/
def Obligations.StepPerformsNextCommand : Prop :=
  ∀ s : State,
    (∀ c rest, s.inbox = c :: rest → step s = perform c { s with inbox := rest }) ∧
    (s.inbox = [] → ∃ r, step s = perform (.step r) s)

/-! ## Invariants -/

/-- The state RESET gives is coherent, for every choice of the open parameters. The form of memory is log entry 8, the fault
fields log entry 11. -/
def Obligations.CoherentAtReset : Prop :=
  ∀ c : Config, (State.resetFor c).Coherent

/-- Every step, whatever command it performs, keeps the memory in its canonical form and the fault status coherent (R201, R203).
The form of memory is log entry 8, the fault fields log entry 11. -/
def Obligations.StepKeepsCoherent : Prop :=
  ∀ s t : State, s.Coherent → step s = .next t → t.Coherent

/-- The state RESET gives has PC and the return addresses in their bounds. The bounds are the model's own, log entry 22. -/
def Obligations.PcBoundedAtReset : Prop :=
  ∀ c : Config, (State.resetFor c).PcBounded

/-- R56, R100, R104, R109: PC never passes 0x10FE and a return address never passes 0x1000, whatever command is performed. The
bounds are the model's own reading of those rules, log entry 22. -/
def Obligations.StepKeepsPcBounded : Prop :=
  ∀ s t : State, s.PcBounded → step s = .next t → t.PcBounded

/-- R9 to R11: no step changes the open parameters; and the queue of commands only loses its oldest. Where the parameters and
the queue stand is log entries 5 and 7. -/
def Obligations.ParametersNeverChange : Prop :=
  ∀ s t : State, step s = .next t → t.config = s.config ∧ t.inbox = s.inbox.tail

/-- R37, R50 and log entry 8: two memories in canonical form that read alike at every address are the same data. -/
def Obligations.EqualReadsEqualMemories : Prop :=
  ∀ (c : Config) (m m' : Memory), Memory.wf c m → Memory.wf c m' →
    (∀ a, a < 4096 → Memory.get c m a = Memory.get c m' a) → m = m'

/-! ## The scheduler (60_exceptions.md R214 to R219) -/

/-- R215, R216: after an advance neither accumulator has a due step, and each dispatched step has drained exactly one period of
its accumulator from what the clamped elapsed time added; where both are due, SCHED_ORDER says which goes first. How the
accumulators are scaled is log entry 20. -/
def Obligations.SchedulerDrainsEveryDueStep : Prop :=
  ∀ (h : HostConfig) (now : Nat) (k k' : Scheduler) (ds : List Dispatched), 0 < h.clockHz → k.advance h now = (k', ds) →
    k'.stepAcc < h.clockHz ∧ k'.tickAcc < h.clockHz ∧ k'.lastSeen = now ∧
    k'.stepAcc + h.clockHz * stepsOf .instructionStep ds =
      k.stepAcc + min (now - k.lastSeen) h.maxSlice * h.cpuHz ∧
    k'.tickAcc + h.clockHz * stepsOf .timerStep ds =
      k.tickAcc + min (now - k.lastSeen) h.maxSlice * 60 ∧
    (h.clockHz ≤ (k.observe h now).stepAcc → h.clockHz ≤ (k.observe h now).tickAcc →
      ds.head? = some (match h.order with | .stepFirst => .instructionStep | .tickFirst => .timerStep))

/-- R219 as W10 gives it: at 800 Hz, one second of elapsed time in any number of calls, none further than MAX_SLICE from the one
before, dispatches exactly 800 instruction steps and 60 timer steps. That the scheduler starts with both accumulators at 0 and the time of
its start as the time last seen, and how the accumulators are scaled, is the model's choice, log entry 20. -/
def Obligations.OneSecondDispatches800And60 : Prop :=
  ∀ (h : HostConfig) (t0 : Nat) (times : List Nat), 0 < h.clockHz → h.cpuHz = 800 →
    TimesWithin h.maxSlice t0 times → times.getLast? = some (t0 + h.clockHz) →
    stepsOf .instructionStep (Scheduler.advanceAll h times (Scheduler.startAt t0)).2 = 800 ∧
    stepsOf .timerStep (Scheduler.advanceAll h times (Scheduler.startAt t0)).2 = 60

/-- R217: the sleep is for the smaller of the two remaining times to due, in whole units of the clock: after it neither accumulator
has passed its next due event, and one unit more would make one of them pass it. That the sleep is rounded down is log entry 20. -/
def Obligations.SleepNeverOversleeps : Prop :=
  ∀ (h : HostConfig) (k : Scheduler), 0 < h.cpuHz → k.stepAcc ≤ h.clockHz → k.tickAcc ≤ h.clockHz →
    k.stepAcc + k.sleepTime h * h.cpuHz ≤ h.clockHz ∧ k.tickAcc + k.sleepTime h * 60 ≤ h.clockHz ∧
    (k.stepAcc + (k.sleepTime h + 1) * h.cpuHz > h.clockHz ∨ k.tickAcc + (k.sleepTime h + 1) * 60 > h.clockHz)
end

