-- ==== Sys2Proof/Laws/State.lean ====
section
/-!
SUPPORT. One lemma per field per update of the state, so that no later proof unfolds a record update.
-/

namespace Sys2Proof.Machine

/-! ## State.setReg -/

@[simp] theorem State.setReg_v (s : State) (x : RegIdx) (u : Byte) : (s.setReg x u).v = s.v.set x u := rfl
@[simp] theorem State.setReg_i (s : State) (x : RegIdx) (u : Byte) : (s.setReg x u).i = s.i := rfl
@[simp] theorem State.setReg_pc (s : State) (x : RegIdx) (u : Byte) : (s.setReg x u).pc = s.pc := rfl
@[simp] theorem State.setReg_sp (s : State) (x : RegIdx) (u : Byte) : (s.setReg x u).sp = s.sp := rfl
@[simp] theorem State.setReg_stack (s : State) (x : RegIdx) (u : Byte) : (s.setReg x u).stack = s.stack := rfl
@[simp] theorem State.setReg_dt (s : State) (x : RegIdx) (u : Byte) : (s.setReg x u).dt = s.dt := rfl
@[simp] theorem State.setReg_st (s : State) (x : RegIdx) (u : Byte) : (s.setReg x u).st = s.st := rfl
@[simp] theorem State.setReg_keys (s : State) (x : RegIdx) (u : Byte) : (s.setReg x u).keys = s.keys := rfl
@[simp] theorem State.setReg_fb (s : State) (x : RegIdx) (u : Byte) : (s.setReg x u).fb = s.fb := rfl
@[simp] theorem State.setReg_mem (s : State) (x : RegIdx) (u : Byte) : (s.setReg x u).mem = s.mem := rfl
@[simp] theorem State.setReg_faulted (s : State) (x : RegIdx) (u : Byte) : (s.setReg x u).faulted = s.faulted := rfl
@[simp] theorem State.setReg_faultCause (s : State) (x : RegIdx) (u : Byte) : (s.setReg x u).faultCause = s.faultCause := rfl
@[simp] theorem State.setReg_faultPc (s : State) (x : RegIdx) (u : Byte) : (s.setReg x u).faultPc = s.faultPc := rfl
@[simp] theorem State.setReg_port (s : State) (x : RegIdx) (u : Byte) : (s.setReg x u).port = s.port := rfl
@[simp] theorem State.setReg_config (s : State) (x : RegIdx) (u : Byte) : (s.setReg x u).config = s.config := rfl
@[simp] theorem State.setReg_inbox (s : State) (x : RegIdx) (u : Byte) : (s.setReg x u).inbox = s.inbox := rfl
@[simp] theorem State.setReg_draws (s : State) (x : RegIdx) (u : Byte) : (s.setReg x u).draws = s.draws := rfl

/-! ## State.setIndex -/

@[simp] theorem State.setIndex_v (s : State) (w : Word) : (s.setIndex w).v = s.v := rfl
@[simp] theorem State.setIndex_i (s : State) (w : Word) : (s.setIndex w).i = w := rfl
@[simp] theorem State.setIndex_pc (s : State) (w : Word) : (s.setIndex w).pc = s.pc := rfl
@[simp] theorem State.setIndex_sp (s : State) (w : Word) : (s.setIndex w).sp = s.sp := rfl
@[simp] theorem State.setIndex_stack (s : State) (w : Word) : (s.setIndex w).stack = s.stack := rfl
@[simp] theorem State.setIndex_dt (s : State) (w : Word) : (s.setIndex w).dt = s.dt := rfl
@[simp] theorem State.setIndex_st (s : State) (w : Word) : (s.setIndex w).st = s.st := rfl
@[simp] theorem State.setIndex_keys (s : State) (w : Word) : (s.setIndex w).keys = s.keys := rfl
@[simp] theorem State.setIndex_fb (s : State) (w : Word) : (s.setIndex w).fb = s.fb := rfl
@[simp] theorem State.setIndex_mem (s : State) (w : Word) : (s.setIndex w).mem = s.mem := rfl
@[simp] theorem State.setIndex_faulted (s : State) (w : Word) : (s.setIndex w).faulted = s.faulted := rfl
@[simp] theorem State.setIndex_faultCause (s : State) (w : Word) : (s.setIndex w).faultCause = s.faultCause := rfl
@[simp] theorem State.setIndex_faultPc (s : State) (w : Word) : (s.setIndex w).faultPc = s.faultPc := rfl
@[simp] theorem State.setIndex_port (s : State) (w : Word) : (s.setIndex w).port = s.port := rfl
@[simp] theorem State.setIndex_config (s : State) (w : Word) : (s.setIndex w).config = s.config := rfl
@[simp] theorem State.setIndex_inbox (s : State) (w : Word) : (s.setIndex w).inbox = s.inbox := rfl
@[simp] theorem State.setIndex_draws (s : State) (w : Word) : (s.setIndex w).draws = s.draws := rfl

/-! ## State.jump -/

@[simp] theorem State.jump_v (s : State) (w : Word) : (s.jump w).v = s.v := rfl
@[simp] theorem State.jump_i (s : State) (w : Word) : (s.jump w).i = s.i := rfl
@[simp] theorem State.jump_pc (s : State) (w : Word) : (s.jump w).pc = w := rfl
@[simp] theorem State.jump_sp (s : State) (w : Word) : (s.jump w).sp = s.sp := rfl
@[simp] theorem State.jump_stack (s : State) (w : Word) : (s.jump w).stack = s.stack := rfl
@[simp] theorem State.jump_dt (s : State) (w : Word) : (s.jump w).dt = s.dt := rfl
@[simp] theorem State.jump_st (s : State) (w : Word) : (s.jump w).st = s.st := rfl
@[simp] theorem State.jump_keys (s : State) (w : Word) : (s.jump w).keys = s.keys := rfl
@[simp] theorem State.jump_fb (s : State) (w : Word) : (s.jump w).fb = s.fb := rfl
@[simp] theorem State.jump_mem (s : State) (w : Word) : (s.jump w).mem = s.mem := rfl
@[simp] theorem State.jump_faulted (s : State) (w : Word) : (s.jump w).faulted = s.faulted := rfl
@[simp] theorem State.jump_faultCause (s : State) (w : Word) : (s.jump w).faultCause = s.faultCause := rfl
@[simp] theorem State.jump_faultPc (s : State) (w : Word) : (s.jump w).faultPc = s.faultPc := rfl
@[simp] theorem State.jump_port (s : State) (w : Word) : (s.jump w).port = s.port := rfl
@[simp] theorem State.jump_config (s : State) (w : Word) : (s.jump w).config = s.config := rfl
@[simp] theorem State.jump_inbox (s : State) (w : Word) : (s.jump w).inbox = s.inbox := rfl
@[simp] theorem State.jump_draws (s : State) (w : Word) : (s.jump w).draws = s.draws := rfl

/-! ## State.skipIf -/

@[simp] theorem State.skipIf_v (s : State) (c : Bool) : (s.skipIf c).v = s.v := by cases c <;> rfl
@[simp] theorem State.skipIf_i (s : State) (c : Bool) : (s.skipIf c).i = s.i := by cases c <;> rfl
@[simp] theorem State.skipIf_pc (s : State) (c : Bool) : (s.skipIf c).pc = if c then s.pc + 2 else s.pc := by cases c <;> rfl
@[simp] theorem State.skipIf_sp (s : State) (c : Bool) : (s.skipIf c).sp = s.sp := by cases c <;> rfl
@[simp] theorem State.skipIf_stack (s : State) (c : Bool) : (s.skipIf c).stack = s.stack := by cases c <;> rfl
@[simp] theorem State.skipIf_dt (s : State) (c : Bool) : (s.skipIf c).dt = s.dt := by cases c <;> rfl
@[simp] theorem State.skipIf_st (s : State) (c : Bool) : (s.skipIf c).st = s.st := by cases c <;> rfl
@[simp] theorem State.skipIf_keys (s : State) (c : Bool) : (s.skipIf c).keys = s.keys := by cases c <;> rfl
@[simp] theorem State.skipIf_fb (s : State) (c : Bool) : (s.skipIf c).fb = s.fb := by cases c <;> rfl
@[simp] theorem State.skipIf_mem (s : State) (c : Bool) : (s.skipIf c).mem = s.mem := by cases c <;> rfl
@[simp] theorem State.skipIf_faulted (s : State) (c : Bool) : (s.skipIf c).faulted = s.faulted := by cases c <;> rfl
@[simp] theorem State.skipIf_faultCause (s : State) (c : Bool) : (s.skipIf c).faultCause = s.faultCause := by cases c <;> rfl
@[simp] theorem State.skipIf_faultPc (s : State) (c : Bool) : (s.skipIf c).faultPc = s.faultPc := by cases c <;> rfl
@[simp] theorem State.skipIf_port (s : State) (c : Bool) : (s.skipIf c).port = s.port := by cases c <;> rfl
@[simp] theorem State.skipIf_config (s : State) (c : Bool) : (s.skipIf c).config = s.config := by cases c <;> rfl
@[simp] theorem State.skipIf_inbox (s : State) (c : Bool) : (s.skipIf c).inbox = s.inbox := by cases c <;> rfl
@[simp] theorem State.skipIf_draws (s : State) (c : Bool) : (s.skipIf c).draws = s.draws := by cases c <;> rfl

/-! ## State.writeByte -/

@[simp] theorem State.writeByte_v (s : State) (a : Nat) (u : Byte) : (s.writeByte a u).v = s.v := rfl
@[simp] theorem State.writeByte_i (s : State) (a : Nat) (u : Byte) : (s.writeByte a u).i = s.i := rfl
@[simp] theorem State.writeByte_pc (s : State) (a : Nat) (u : Byte) : (s.writeByte a u).pc = s.pc := rfl
@[simp] theorem State.writeByte_sp (s : State) (a : Nat) (u : Byte) : (s.writeByte a u).sp = s.sp := rfl
@[simp] theorem State.writeByte_stack (s : State) (a : Nat) (u : Byte) : (s.writeByte a u).stack = s.stack := rfl
@[simp] theorem State.writeByte_dt (s : State) (a : Nat) (u : Byte) : (s.writeByte a u).dt = s.dt := rfl
@[simp] theorem State.writeByte_st (s : State) (a : Nat) (u : Byte) : (s.writeByte a u).st = s.st := rfl
@[simp] theorem State.writeByte_keys (s : State) (a : Nat) (u : Byte) : (s.writeByte a u).keys = s.keys := rfl
@[simp] theorem State.writeByte_fb (s : State) (a : Nat) (u : Byte) : (s.writeByte a u).fb = s.fb := rfl
@[simp] theorem State.writeByte_mem (s : State) (a : Nat) (u : Byte) : (s.writeByte a u).mem = Memory.set s.config s.mem a u := rfl
@[simp] theorem State.writeByte_faulted (s : State) (a : Nat) (u : Byte) : (s.writeByte a u).faulted = s.faulted := rfl
@[simp] theorem State.writeByte_faultCause (s : State) (a : Nat) (u : Byte) : (s.writeByte a u).faultCause = s.faultCause := rfl
@[simp] theorem State.writeByte_faultPc (s : State) (a : Nat) (u : Byte) : (s.writeByte a u).faultPc = s.faultPc := rfl
@[simp] theorem State.writeByte_port (s : State) (a : Nat) (u : Byte) : (s.writeByte a u).port = s.port := rfl
@[simp] theorem State.writeByte_config (s : State) (a : Nat) (u : Byte) : (s.writeByte a u).config = s.config := rfl
@[simp] theorem State.writeByte_inbox (s : State) (a : Nat) (u : Byte) : (s.writeByte a u).inbox = s.inbox := rfl
@[simp] theorem State.writeByte_draws (s : State) (a : Nat) (u : Byte) : (s.writeByte a u).draws = s.draws := rfl

/-! ## State.loadRegs -/

@[simp] theorem State.loadRegs_i (s : State) (x : RegIdx) (a : Nat) : (s.loadRegs x a).i = s.i := by simp only [State.loadRegs]
@[simp] theorem State.loadRegs_pc (s : State) (x : RegIdx) (a : Nat) : (s.loadRegs x a).pc = s.pc := by simp only [State.loadRegs]
@[simp] theorem State.loadRegs_sp (s : State) (x : RegIdx) (a : Nat) : (s.loadRegs x a).sp = s.sp := by simp only [State.loadRegs]
@[simp] theorem State.loadRegs_stack (s : State) (x : RegIdx) (a : Nat) : (s.loadRegs x a).stack = s.stack := by simp only [State.loadRegs]
@[simp] theorem State.loadRegs_dt (s : State) (x : RegIdx) (a : Nat) : (s.loadRegs x a).dt = s.dt := by simp only [State.loadRegs]
@[simp] theorem State.loadRegs_st (s : State) (x : RegIdx) (a : Nat) : (s.loadRegs x a).st = s.st := by simp only [State.loadRegs]
@[simp] theorem State.loadRegs_keys (s : State) (x : RegIdx) (a : Nat) : (s.loadRegs x a).keys = s.keys := by simp only [State.loadRegs]
@[simp] theorem State.loadRegs_fb (s : State) (x : RegIdx) (a : Nat) : (s.loadRegs x a).fb = s.fb := by simp only [State.loadRegs]
@[simp] theorem State.loadRegs_mem (s : State) (x : RegIdx) (a : Nat) : (s.loadRegs x a).mem = s.mem := by simp only [State.loadRegs]
@[simp] theorem State.loadRegs_faulted (s : State) (x : RegIdx) (a : Nat) : (s.loadRegs x a).faulted = s.faulted := by simp only [State.loadRegs]
@[simp] theorem State.loadRegs_faultCause (s : State) (x : RegIdx) (a : Nat) : (s.loadRegs x a).faultCause = s.faultCause := by simp only [State.loadRegs]
@[simp] theorem State.loadRegs_faultPc (s : State) (x : RegIdx) (a : Nat) : (s.loadRegs x a).faultPc = s.faultPc := by simp only [State.loadRegs]
@[simp] theorem State.loadRegs_port (s : State) (x : RegIdx) (a : Nat) : (s.loadRegs x a).port = s.port := by simp only [State.loadRegs]
@[simp] theorem State.loadRegs_config (s : State) (x : RegIdx) (a : Nat) : (s.loadRegs x a).config = s.config := by simp only [State.loadRegs]
@[simp] theorem State.loadRegs_inbox (s : State) (x : RegIdx) (a : Nat) : (s.loadRegs x a).inbox = s.inbox := by simp only [State.loadRegs]
@[simp] theorem State.loadRegs_draws (s : State) (x : RegIdx) (a : Nat) : (s.loadRegs x a).draws = s.draws := by simp only [State.loadRegs]

/-! ## State.writeAlu -/

@[simp] theorem State.writeAlu_v (s : State) (x : RegIdx) (o : AluOut) : (s.writeAlu x o).v = (s.v.set x o.result).set flagIdx (flagByte o.flag) := rfl
@[simp] theorem State.writeAlu_i (s : State) (x : RegIdx) (o : AluOut) : (s.writeAlu x o).i = s.i := rfl
@[simp] theorem State.writeAlu_pc (s : State) (x : RegIdx) (o : AluOut) : (s.writeAlu x o).pc = s.pc := rfl
@[simp] theorem State.writeAlu_sp (s : State) (x : RegIdx) (o : AluOut) : (s.writeAlu x o).sp = s.sp := rfl
@[simp] theorem State.writeAlu_stack (s : State) (x : RegIdx) (o : AluOut) : (s.writeAlu x o).stack = s.stack := rfl
@[simp] theorem State.writeAlu_dt (s : State) (x : RegIdx) (o : AluOut) : (s.writeAlu x o).dt = s.dt := rfl
@[simp] theorem State.writeAlu_st (s : State) (x : RegIdx) (o : AluOut) : (s.writeAlu x o).st = s.st := rfl
@[simp] theorem State.writeAlu_keys (s : State) (x : RegIdx) (o : AluOut) : (s.writeAlu x o).keys = s.keys := rfl
@[simp] theorem State.writeAlu_fb (s : State) (x : RegIdx) (o : AluOut) : (s.writeAlu x o).fb = s.fb := rfl
@[simp] theorem State.writeAlu_mem (s : State) (x : RegIdx) (o : AluOut) : (s.writeAlu x o).mem = s.mem := rfl
@[simp] theorem State.writeAlu_faulted (s : State) (x : RegIdx) (o : AluOut) : (s.writeAlu x o).faulted = s.faulted := rfl
@[simp] theorem State.writeAlu_faultCause (s : State) (x : RegIdx) (o : AluOut) : (s.writeAlu x o).faultCause = s.faultCause := rfl
@[simp] theorem State.writeAlu_faultPc (s : State) (x : RegIdx) (o : AluOut) : (s.writeAlu x o).faultPc = s.faultPc := rfl
@[simp] theorem State.writeAlu_port (s : State) (x : RegIdx) (o : AluOut) : (s.writeAlu x o).port = s.port := rfl
@[simp] theorem State.writeAlu_config (s : State) (x : RegIdx) (o : AluOut) : (s.writeAlu x o).config = s.config := rfl
@[simp] theorem State.writeAlu_inbox (s : State) (x : RegIdx) (o : AluOut) : (s.writeAlu x o).inbox = s.inbox := rfl
@[simp] theorem State.writeAlu_draws (s : State) (x : RegIdx) (o : AluOut) : (s.writeAlu x o).draws = s.draws := rfl

/-! ## raiseFault -/

@[simp] theorem raiseFault_v (e : FaultCause) (a : Word) (s : State) : (raiseFault e a s).v = s.v := rfl
@[simp] theorem raiseFault_i (e : FaultCause) (a : Word) (s : State) : (raiseFault e a s).i = s.i := rfl
@[simp] theorem raiseFault_pc (e : FaultCause) (a : Word) (s : State) : (raiseFault e a s).pc = a := rfl
@[simp] theorem raiseFault_sp (e : FaultCause) (a : Word) (s : State) : (raiseFault e a s).sp = s.sp := rfl
@[simp] theorem raiseFault_stack (e : FaultCause) (a : Word) (s : State) : (raiseFault e a s).stack = s.stack := rfl
@[simp] theorem raiseFault_dt (e : FaultCause) (a : Word) (s : State) : (raiseFault e a s).dt = s.dt := rfl
@[simp] theorem raiseFault_st (e : FaultCause) (a : Word) (s : State) : (raiseFault e a s).st = s.st := rfl
@[simp] theorem raiseFault_keys (e : FaultCause) (a : Word) (s : State) : (raiseFault e a s).keys = s.keys := rfl
@[simp] theorem raiseFault_fb (e : FaultCause) (a : Word) (s : State) : (raiseFault e a s).fb = s.fb := rfl
@[simp] theorem raiseFault_mem (e : FaultCause) (a : Word) (s : State) : (raiseFault e a s).mem = s.mem := rfl
@[simp] theorem raiseFault_faulted (e : FaultCause) (a : Word) (s : State) : (raiseFault e a s).faulted = true := rfl
@[simp] theorem raiseFault_faultCause (e : FaultCause) (a : Word) (s : State) : (raiseFault e a s).faultCause = e := rfl
@[simp] theorem raiseFault_faultPc (e : FaultCause) (a : Word) (s : State) : (raiseFault e a s).faultPc = a := rfl
@[simp] theorem raiseFault_port (e : FaultCause) (a : Word) (s : State) : (raiseFault e a s).port = s.port := rfl
@[simp] theorem raiseFault_config (e : FaultCause) (a : Word) (s : State) : (raiseFault e a s).config = s.config := rfl
@[simp] theorem raiseFault_inbox (e : FaultCause) (a : Word) (s : State) : (raiseFault e a s).inbox = s.inbox := rfl
@[simp] theorem raiseFault_draws (e : FaultCause) (a : Word) (s : State) : (raiseFault e a s).draws = s.draws := rfl

/-! ## signalUnknown -/

@[simp] theorem signalUnknown_v (w : Word) (s : State) : (signalUnknown w s).v = s.v := rfl
@[simp] theorem signalUnknown_i (w : Word) (s : State) : (signalUnknown w s).i = s.i := rfl
@[simp] theorem signalUnknown_pc (w : Word) (s : State) : (signalUnknown w s).pc = s.pc := rfl
@[simp] theorem signalUnknown_sp (w : Word) (s : State) : (signalUnknown w s).sp = s.sp := rfl
@[simp] theorem signalUnknown_stack (w : Word) (s : State) : (signalUnknown w s).stack = s.stack := rfl
@[simp] theorem signalUnknown_dt (w : Word) (s : State) : (signalUnknown w s).dt = s.dt := rfl
@[simp] theorem signalUnknown_st (w : Word) (s : State) : (signalUnknown w s).st = s.st := rfl
@[simp] theorem signalUnknown_keys (w : Word) (s : State) : (signalUnknown w s).keys = s.keys := rfl
@[simp] theorem signalUnknown_fb (w : Word) (s : State) : (signalUnknown w s).fb = s.fb := rfl
@[simp] theorem signalUnknown_mem (w : Word) (s : State) : (signalUnknown w s).mem = s.mem := rfl
@[simp] theorem signalUnknown_faulted (w : Word) (s : State) : (signalUnknown w s).faulted = s.faulted := rfl
@[simp] theorem signalUnknown_faultCause (w : Word) (s : State) : (signalUnknown w s).faultCause = s.faultCause := rfl
@[simp] theorem signalUnknown_faultPc (w : Word) (s : State) : (signalUnknown w s).faultPc = s.faultPc := rfl
@[simp] theorem signalUnknown_port (w : Word) (s : State) : (signalUnknown w s).port = { s.port with diag := some { addr := s.pc - 2, word := w } } := rfl
@[simp] theorem signalUnknown_config (w : Word) (s : State) : (signalUnknown w s).config = s.config := rfl
@[simp] theorem signalUnknown_inbox (w : Word) (s : State) : (signalUnknown w s).inbox = s.inbox := rfl
@[simp] theorem signalUnknown_draws (w : Word) (s : State) : (signalUnknown w s).draws = s.draws := rfl

/-! ## beginStep -/

@[simp] theorem beginStep_v (r : Byte) (s : State) : (beginStep r s).v = s.v := rfl
@[simp] theorem beginStep_i (r : Byte) (s : State) : (beginStep r s).i = s.i := rfl
@[simp] theorem beginStep_pc (r : Byte) (s : State) : (beginStep r s).pc = s.pc := rfl
@[simp] theorem beginStep_sp (r : Byte) (s : State) : (beginStep r s).sp = s.sp := rfl
@[simp] theorem beginStep_stack (r : Byte) (s : State) : (beginStep r s).stack = s.stack := rfl
@[simp] theorem beginStep_dt (r : Byte) (s : State) : (beginStep r s).dt = s.dt := rfl
@[simp] theorem beginStep_st (r : Byte) (s : State) : (beginStep r s).st = s.st := rfl
@[simp] theorem beginStep_keys (r : Byte) (s : State) : (beginStep r s).keys = s.keys := rfl
@[simp] theorem beginStep_fb (r : Byte) (s : State) : (beginStep r s).fb = s.fb := rfl
@[simp] theorem beginStep_mem (r : Byte) (s : State) : (beginStep r s).mem = s.mem := rfl
@[simp] theorem beginStep_faulted (r : Byte) (s : State) : (beginStep r s).faulted = s.faulted := rfl
@[simp] theorem beginStep_faultCause (r : Byte) (s : State) : (beginStep r s).faultCause = s.faultCause := rfl
@[simp] theorem beginStep_faultPc (r : Byte) (s : State) : (beginStep r s).faultPc = s.faultPc := rfl
@[simp] theorem beginStep_port (r : Byte) (s : State) : (beginStep r s).port = { s.port with rand := r, diag := none } := rfl
@[simp] theorem beginStep_config (r : Byte) (s : State) : (beginStep r s).config = s.config := rfl
@[simp] theorem beginStep_inbox (r : Byte) (s : State) : (beginStep r s).inbox = s.inbox := rfl
@[simp] theorem beginStep_draws (r : Byte) (s : State) : (beginStep r s).draws = s.draws + 1 := rfl

/-! ## advance -/

@[simp] theorem advance_v (w : Word) (s : State) : (advance w s).v = s.v := rfl
@[simp] theorem advance_i (w : Word) (s : State) : (advance w s).i = s.i := rfl
@[simp] theorem advance_pc (w : Word) (s : State) : (advance w s).pc = s.pc + 2 := rfl
@[simp] theorem advance_sp (w : Word) (s : State) : (advance w s).sp = s.sp := rfl
@[simp] theorem advance_stack (w : Word) (s : State) : (advance w s).stack = s.stack := rfl
@[simp] theorem advance_dt (w : Word) (s : State) : (advance w s).dt = s.dt := rfl
@[simp] theorem advance_st (w : Word) (s : State) : (advance w s).st = s.st := rfl
@[simp] theorem advance_keys (w : Word) (s : State) : (advance w s).keys = s.keys := rfl
@[simp] theorem advance_fb (w : Word) (s : State) : (advance w s).fb = s.fb := rfl
@[simp] theorem advance_mem (w : Word) (s : State) : (advance w s).mem = s.mem := rfl
@[simp] theorem advance_faulted (w : Word) (s : State) : (advance w s).faulted = s.faulted := rfl
@[simp] theorem advance_faultCause (w : Word) (s : State) : (advance w s).faultCause = s.faultCause := rfl
@[simp] theorem advance_faultPc (w : Word) (s : State) : (advance w s).faultPc = s.faultPc := rfl
@[simp] theorem advance_port (w : Word) (s : State) : (advance w s).port = { s.port with opcode := w } := rfl
@[simp] theorem advance_config (w : Word) (s : State) : (advance w s).config = s.config := rfl
@[simp] theorem advance_inbox (w : Word) (s : State) : (advance w s).inbox = s.inbox := rfl
@[simp] theorem advance_draws (w : Word) (s : State) : (advance w s).draws = s.draws := rfl

/-! ## State.writeBytes: memory is all that it writes -/

theorem State.writeBytes_eq (s : State) (a : Nat) (l : List Byte) :
    s.writeBytes a l = { s with mem := (s.writeBytes a l).mem } := by
  induction l generalizing s a with
  | nil => rfl
  | cons u rest ih => rw [State.writeBytes, ih]; rfl

@[simp] theorem State.writeBytes_v (s : State) (a : Nat) (l : List Byte) : (s.writeBytes a l).v = s.v := by
  rw [State.writeBytes_eq]
@[simp] theorem State.writeBytes_i (s : State) (a : Nat) (l : List Byte) : (s.writeBytes a l).i = s.i := by
  rw [State.writeBytes_eq]
@[simp] theorem State.writeBytes_pc (s : State) (a : Nat) (l : List Byte) : (s.writeBytes a l).pc = s.pc := by
  rw [State.writeBytes_eq]
@[simp] theorem State.writeBytes_sp (s : State) (a : Nat) (l : List Byte) : (s.writeBytes a l).sp = s.sp := by
  rw [State.writeBytes_eq]
@[simp] theorem State.writeBytes_stack (s : State) (a : Nat) (l : List Byte) : (s.writeBytes a l).stack = s.stack := by
  rw [State.writeBytes_eq]
@[simp] theorem State.writeBytes_dt (s : State) (a : Nat) (l : List Byte) : (s.writeBytes a l).dt = s.dt := by
  rw [State.writeBytes_eq]
@[simp] theorem State.writeBytes_st (s : State) (a : Nat) (l : List Byte) : (s.writeBytes a l).st = s.st := by
  rw [State.writeBytes_eq]
@[simp] theorem State.writeBytes_keys (s : State) (a : Nat) (l : List Byte) : (s.writeBytes a l).keys = s.keys := by
  rw [State.writeBytes_eq]
@[simp] theorem State.writeBytes_fb (s : State) (a : Nat) (l : List Byte) : (s.writeBytes a l).fb = s.fb := by
  rw [State.writeBytes_eq]
@[simp] theorem State.writeBytes_faulted (s : State) (a : Nat) (l : List Byte) : (s.writeBytes a l).faulted = s.faulted := by
  rw [State.writeBytes_eq]
@[simp] theorem State.writeBytes_faultCause (s : State) (a : Nat) (l : List Byte) : (s.writeBytes a l).faultCause = s.faultCause := by
  rw [State.writeBytes_eq]
@[simp] theorem State.writeBytes_faultPc (s : State) (a : Nat) (l : List Byte) : (s.writeBytes a l).faultPc = s.faultPc := by
  rw [State.writeBytes_eq]
@[simp] theorem State.writeBytes_port (s : State) (a : Nat) (l : List Byte) : (s.writeBytes a l).port = s.port := by
  rw [State.writeBytes_eq]
@[simp] theorem State.writeBytes_config (s : State) (a : Nat) (l : List Byte) : (s.writeBytes a l).config = s.config := by
  rw [State.writeBytes_eq]
@[simp] theorem State.writeBytes_inbox (s : State) (a : Nat) (l : List Byte) : (s.writeBytes a l).inbox = s.inbox := by
  rw [State.writeBytes_eq]
@[simp] theorem State.writeBytes_draws (s : State) (a : Nat) (l : List Byte) : (s.writeBytes a l).draws = s.draws := by
  rw [State.writeBytes_eq]

end Sys2Proof.Machine
end

