-- ==== Sys2Proof/Laws/Memory.lean ====
section
/-!
SUPPORT. The laws of memory: a read after a write, a write leaves every other byte alone, every operation keeps the canonical
form, and what a byte-by-byte store leaves at every address.
-/

namespace Sys2Proof.Machine

/-! ## Lists of bytes -/

theorem Memory.lookup_insert (m : Memory) (a b : Nat) (u : Byte) :
    (m.insert a u).lookup b = if b = a then some u else m.lookup b := by
  induction m with
  | nil => simp [Memory.insert, Memory.lookup]
  | cons p rest ih =>
    obtain ⟨c, w⟩ := p
    simp only [Memory.insert]
    split
    · by_cases h : b = a <;> simp [Memory.lookup, h]
    · split
      · next h => subst h; by_cases h' : b = a <;> simp [Memory.lookup, h']
      · next h1 h2 =>
        simp only [Memory.lookup, ih]
        by_cases h' : b = c
        · subst h'; simp [Ne.symm h2]
        · simp [h']

theorem Memory.lookup_erase (m : Memory) (a b : Nat) :
    (m.erase a).lookup b = if b = a then none else m.lookup b := by
  induction m with
  | nil => simp [Memory.erase, Memory.lookup]
  | cons p rest ih =>
    obtain ⟨c, w⟩ := p
    simp only [Memory.erase, List.filter_cons] at ih ⊢
    by_cases hc : c = a
    · subst hc
      by_cases hb : b = c
      · subst hb; simpa using ih
      · simpa [Memory.lookup, hb] using ih
    · by_cases hb : b = c
      · subst hb; simp [hc, Memory.lookup]
      · simp [hc, Memory.lookup, hb, ih]

theorem Memory.mem_of_lookup {m : Memory} {a : Nat} {u : Byte} (h : m.lookup a = some u) : (a, u) ∈ m := by
  induction m with
  | nil => simp [Memory.lookup] at h
  | cons p rest ih =>
    obtain ⟨c, w⟩ := p
    simp only [Memory.lookup] at h
    split at h
    · next hc => cases h; subst hc; exact List.mem_cons_self ..
    · exact List.mem_cons_of_mem _ (ih h)

theorem Memory.mem_insert {m : Memory} {a : Nat} {u : Byte} {p : Host.Cell} (h : p ∈ m.insert a u) :
    p = (a, u) ∨ p ∈ m := by
  induction m with
  | nil => simpa [Memory.insert] using h
  | cons q rest ih =>
    obtain ⟨c, w⟩ := q
    simp only [Memory.insert] at h
    split at h
    · simpa using h
    · split at h
      · rcases List.mem_cons.mp h with h | h
        · exact .inl h
        · exact .inr (List.mem_cons_of_mem _ h)
      · rcases List.mem_cons.mp h with h | h
        · exact .inr (h ▸ List.mem_cons_self ..)
        · rcases ih h with h | h
          · exact .inl h
          · exact .inr (List.mem_cons_of_mem _ h)

/-! ## One byte -/

/-- A read after a write: the byte written, for an address in memory; every other address reads as before. -/
theorem Memory.get_set (c : Config) (m : Memory) (a b : Nat) (u : Byte) :
    Memory.get c (Memory.set c m a u) b = if b = a ∧ a < memSize then u else Memory.get c m b := by
  unfold Memory.set Memory.get
  by_cases ha : a < memSize
  · rw [if_pos ha]
    by_cases hb : b = a
    · subst hb
      split
      · next hu => simp [Memory.lookup_erase, hu, ha]
      · simp [Memory.lookup_insert, ha]
    · split <;> simp [Memory.lookup_erase, Memory.lookup_insert, hb]
  · simp [ha]

/-- Every write keeps the canonical form. -/
theorem Memory.wf_set {c : Config} {m : Memory} (h : Memory.wf c m) (a : Nat) (u : Byte) :
    Memory.wf c (Memory.set c m a u) := by
  unfold Memory.set
  split
  · next ha =>
    split
    · exact ⟨h.1.filter _, fun p hp => h.2 p (List.mem_filter.mp hp).1⟩
    · next hu =>
      refine ⟨?_, fun p hp => ?_⟩
      · have hs := h.1
        clear h
        induction m with
        | nil => simp [Memory.insert]
        | cons q rest ih =>
          obtain ⟨d, w⟩ := q
          simp only [Memory.insert]
          rw [List.pairwise_cons] at hs
          split
          · next hlt =>
            refine List.pairwise_cons.mpr ⟨fun p hp => ?_, List.pairwise_cons.mpr hs⟩
            rcases List.mem_cons.mp hp with rfl | hp
            · exact hlt
            · exact lt_trans hlt (hs.1 p hp)
          · split
            · next _ he => subst he; exact List.pairwise_cons.mpr hs
            · next h1 h2 =>
              refine List.pairwise_cons.mpr ⟨fun p hp => ?_, ih hs.2⟩
              rcases Memory.mem_insert hp with rfl | hp
              · show d < a
                omega
              · exact hs.1 p hp
      · rcases Memory.mem_insert hp with rfl | hp
        · exact ⟨ha, hu⟩
        · exact h.2 p hp
  · exact h

/-- The memory RESET leaves is in canonical form. -/
theorem Memory.wf_nil (c : Config) : Memory.wf c [] := by
  simp [Memory.wf]

/-! ## What RESET leaves, and ranges -/

theorem Memory.unlisted_font (c : Config) (j : Nat) (h : j < 80) :
    Memory.unlisted c (c.fontBase.val + j) = c.fontTable[j] := by
  simp only [Memory.unlisted, fontSize]
  rw [dif_pos (by omega)]
  congr 1
  omega

theorem Memory.unlisted_other (c : Config) (a : Nat) (h : a < c.fontBase.val ∨ c.fontBase.val + 80 ≤ a) :
    Memory.unlisted c a = 0 := by
  simp only [Memory.unlisted, fontSize]
  rw [dif_neg (by omega)]

/-- An access is in memory exactly when its last address, if it has one, is below 4096 (R55). -/
theorem inMemory_iff (a len : Nat) : inMemory a len = true ↔ len = 0 ∨ a + len ≤ 4096 := by
  simp [inMemory]

theorem inMemory_succ (a n : Nat) : inMemory a (n + 1) = true ↔ a + n < 4096 := by
  rw [inMemory_iff]
  omega

@[simp] theorem State.indexAddr_zero (s : State) : s.indexAddr 0 = s.i.toNat := rfl

/-! ## Reads and writes of a state -/

/-- Memory is read through the memory and the parameters alone. -/
theorem State.readByte_congr {s t : State} (hm : t.mem = s.mem) (hc : t.config = s.config) (a : Nat) :
    t.readByte a = s.readByte a := by
  simp [State.readByte, hm, hc]

theorem State.readByte_writeByte (s : State) (a b : Nat) (u : Byte) :
    (s.writeByte a u).readByte b = if b = a ∧ a < memSize then u else s.readByte b := by
  simp [State.readByte, Memory.get_set]

/-- A store of bytes leaves every address outside it alone. -/
theorem State.readByte_writeBytes_outside (s : State) (a : Nat) (l : List Byte) (b : Nat)
    (h : ¬ (a ≤ b ∧ b < a + l.length)) : (s.writeBytes a l).readByte b = s.readByte b := by
  induction l generalizing s a with
  | nil => rfl
  | cons u rest ih =>
    simp only [List.length_cons] at h
    rw [State.writeBytes, ih _ _ (by omega), State.readByte_writeByte, if_neg (by omega)]

/-- A store of bytes in memory: each address of it reads as its byte. -/
theorem State.readByte_writeBytes_inside (s : State) (a : Nat) (l : List Byte) (j : Nat) (hj : j < l.length)
    (hin : a + l.length ≤ memSize) : (s.writeBytes a l).readByte (a + j) = l[j] := by
  induction l generalizing s a j with
  | nil => simp at hj
  | cons u rest ih =>
    simp only [List.length_cons] at hj hin
    rw [State.writeBytes]
    cases j with
    | zero =>
      rw [State.readByte_writeBytes_outside _ _ _ _ (by omega), State.readByte_writeByte, if_pos (by omega)]
      rfl
    | succ j =>
      rw [show a + (j + 1) = a + 1 + j by omega, ih (s.writeByte a u) (a + 1) j (by omega) (by omega)]
      rfl

/-- A store of bytes keeps the canonical form. -/
theorem State.wf_writeBytes (s : State) (a : Nat) (l : List Byte) (h : Memory.wf s.config s.mem) :
    Memory.wf s.config (s.writeBytes a l).mem := by
  induction l generalizing s a with
  | nil => exact h
  | cons u rest ih => exact ih (s.writeByte a u) (a + 1) (Memory.wf_set h a u)

/-- The rows of a sprite. -/
theorem State.readBytes_length (s : State) (a n : Nat) : (s.readBytes a n).length = n := by
  simp [State.readBytes]

theorem State.readBytes_getElem (s : State) (a n r : Nat) (h : r < (s.readBytes a n).length) :
    (s.readBytes a n)[r] = s.readByte (a + r) := by
  simp [State.readBytes]

end Sys2Proof.Machine
end

