-- ==== Sys2Proof/Laws/Registers.lean ====
section
/-!
SUPPORT. What the register, keypad, stack and framebuffer operations read and write, said once each.
-/

namespace Sys2Proof.Machine

/-! ## Registers -/

theorem State.reg_setReg (s : State) (x r : RegIdx) (u : Byte) :
    (s.setReg x u).reg r = if r = x then u else s.reg r := by
  simp only [State.reg, State.setReg, Fin.getElem_fin, Vector.getElem_set]
  by_cases h : r = x
  · simp [h]
  · rw [if_neg h, if_neg (fun e => h (Fin.ext e.symm))]

@[simp] theorem State.reg_setReg_self (s : State) (x : RegIdx) (u : Byte) : (s.setReg x u).reg x = u := by
  simp [State.reg_setReg]

theorem State.reg_setReg_ne {x r : RegIdx} (s : State) (u : Byte) (h : r ≠ x) : (s.setReg x u).reg r = s.reg r := by
  simp [State.reg_setReg, h]

/-- The flag is written last (R121). -/
@[simp] theorem State.reg_writeAlu_flag (s : State) (x : RegIdx) (o : AluOut) :
    (s.writeAlu x o).reg flagIdx = flagByte o.flag := by
  simp [State.writeAlu]

theorem State.reg_writeAlu_dest {x : RegIdx} (s : State) (o : AluOut) (h : x ≠ flagIdx) :
    (s.writeAlu x o).reg x = o.result := by
  simp [State.writeAlu, State.reg_setReg, h]

theorem State.reg_writeAlu_other {x r : RegIdx} (s : State) (o : AluOut) (hx : r ≠ x) (hf : r ≠ flagIdx) :
    (s.writeAlu x o).reg r = s.reg r := by
  simp [State.writeAlu, State.reg_setReg, hx, hf]

theorem State.reg_loadRegs (s : State) (x r : RegIdx) (a : Nat) :
    (s.loadRegs x a).reg r = if r.val ≤ x.val then s.readByte (a + r.val) else s.reg r := by
  simp [State.reg, State.loadRegs]

/-- Registers are read from the register file alone. -/
theorem State.reg_congr {s t : State} (h : t.v = s.v) (r : RegIdx) : t.reg r = s.reg r := by
  simp [State.reg, h]

/-- The list of a block store holds the registers in order. -/
theorem State.regsUpTo_length (s : State) (x : RegIdx) : (s.regsUpTo x).length = x.val + 1 := by
  have hx := x.isLt
  simp only [State.regsUpTo, List.length_take, Vector.length_toList]
  omega

theorem State.regsUpTo_getElem (s : State) (x j : RegIdx) (h : j.val < (s.regsUpTo x).length) :
    (s.regsUpTo x)[j.val] = s.reg j := by
  simp [State.regsUpTo, State.reg]

/-! ## ALU results -/

theorem aluAdd_toNat (a b : Byte) : (aluAdd a b).result.toNat = (a.toNat + b.toNat) % 256 := by
  simp [aluAdd]

theorem aluSub_toNat (a b : Byte) : ((aluSub a b).result.toNat : Int) = ((a.toNat : Int) - b.toNat) % 256 := by
  simp only [aluSub, BitVec.toNat_ofInt]
  omega

theorem aluShr_toNat (a : Byte) : (aluShr a).result.toNat = a.toNat / 2 := by
  simp [aluShr, Nat.shiftRight_eq_div_pow]

theorem aluShl_toNat (a : Byte) : (aluShl a).result.toNat = a.toNat * 2 % 256 := by
  simp [aluShl, Nat.shiftLeft_eq]

theorem flagByte_toNat (f : Bool) : (flagByte f).toNat = f.toNat := by
  cases f <;> rfl

/-! ## Stack -/

/-- A push answers a state exactly where a slot is free; it writes the slot at SP and adds 1 to SP. -/
theorem State.push_of_lt (s : State) (w : Word) (h : s.sp.val < 16) :
    s.push w = some { s with stack := s.stack.set s.sp.val w h, sp := ⟨s.sp.val + 1, by omega⟩ } := by
  simp [State.push, h]

theorem State.push_full (s : State) (w : Word) (h : s.sp.val = 16) : s.push w = none := by
  simp [State.push, h]

theorem State.pop_of_pos (s : State) (h : 0 < s.sp.val) :
    s.pop = some ({ s with sp := ⟨s.sp.val - 1, by omega⟩ }, s.stack[s.sp.val - 1]'(by omega)) := by
  unfold State.pop
  rw [dif_pos h]

theorem State.pop_empty (s : State) (h : s.sp.val = 0) : s.pop = none := by
  unfold State.pop
  rw [dif_neg (by omega)]

/-! ## Keypad -/

theorem State.keyLine_of_lt (s : State) (b : Byte) (k : KeyIdx) (h : b.toNat = k.val) :
    s.keyLine b = some s.keys[k] := by
  have hk := k.isLt
  simp [State.keyLine, h]

theorem State.keyLine_beyond (s : State) (b : Byte) (h : b.toNat > 0xF) : s.keyLine b = none := by
  simp only [State.keyLine]
  rw [dif_neg (by omega)]

/-- The scan finds a pressed line below which no line is pressed. -/
theorem State.firstPressed_some (s : State) (k : KeyIdx) (hk : s.keys[k] = true)
    (hlt : ∀ j : KeyIdx, j < k → s.keys[j] = false) : s.firstPressed = some k := by
  have h1 : ∃ j, s.firstPressed = some j := by
    rcases hp : s.firstPressed with _ | j
    · rw [State.firstPressed, List.find?_eq_none] at hp
      exact absurd hk (hp k (List.mem_finRange k))
    · exact ⟨j, rfl⟩
  obtain ⟨j, hj⟩ := h1
  have hj' := hj
  rw [State.firstPressed, List.find?_eq_some_iff_getElem] at hj
  obtain ⟨hpj, i, hi, hij, hbefore⟩ := hj
  simp only [List.getElem_finRange] at hij
  rcases lt_trichotomy j k with h | h | h
  · exact absurd hpj (by simp only [hlt j h]; decide)
  · rw [hj', h]
  · have hki : k.val < i := by
      have : j.val = i := by rw [← hij]; rfl
      rw [← this]; exact h
    have := hbefore k.val hki
    simp only [List.getElem_finRange] at this
    exact absurd hk (by simpa using this)

theorem State.firstPressed_none (s : State) (h : ∀ k : KeyIdx, s.keys[k] = false) : s.firstPressed = none := by
  rw [State.firstPressed, List.find?_eq_none]
  intro k _
  rw [h k]
  decide

/-! ## Framebuffer -/

theorem Screen.pixel_flip (fb : Screen) (y y' : Fin 32) (x x' : Fin 64) :
    (fb.flip y x).pixel y' x' = if y' = y ∧ x' = x then !fb.pixel y x else fb.pixel y' x' := by
  simp only [Screen.pixel, Screen.flip, Fin.getElem_fin, Vector.getElem_set, Fin.ext_iff]
  by_cases hy : y'.val = y.val
  · by_cases hx : x'.val = x.val
    · simp [hy, hx]
    · simp [hy, hx, Ne.symm hx]
  · simp [hy, Ne.symm hy]

@[simp] theorem Screen.pixel_blank (y : Fin 32) (x : Fin 64) : Screen.blank.pixel y x = false := by
  simp [Screen.pixel, Screen.blank]

/-- Two framebuffers with the same pixels are the same. -/
theorem Screen.ext_pixel {a b : Screen} (h : ∀ y x, a.pixel y x = b.pixel y x) : a = b := by
  apply Vector.ext
  intro y hy
  apply Vector.ext
  intro x hx
  exact h ⟨y, hy⟩ ⟨x, hx⟩

end Sys2Proof.Machine
end

