-- ==== Sys2Proof/Laws/Sprite.lean ====
section
/-!
SUPPORT. What drawing a sprite does to a canvas: it inverts the pixels of a set and records whether one of them was on. Each stage
of the sprite engine (one bit, one row, all rows) is shown to draw its set; two stages with disjoint sets compose (R171 to R173).
-/

namespace Sys2Proof.Machine

/-- `k'` is `k` with exactly the pixels of `P` inverted, and a hit where one of them was on. -/
structure Drawn (P : Fin 32 → Fin 64 → Prop) (k k' : Canvas) : Prop where
  inside : ∀ y x, P y x → k'.fb.pixel y x = !k.fb.pixel y x
  outside : ∀ y x, ¬ P y x → k'.fb.pixel y x = k.fb.pixel y x
  hit : k'.hit = true ↔ k.hit = true ∨ ∃ y x, P y x ∧ k.fb.pixel y x = true

theorem Drawn.nothing {P : Fin 32 → Fin 64 → Prop} (h : ∀ y x, ¬ P y x) (k : Canvas) : Drawn P k k where
  inside y x hp := absurd hp (h y x)
  outside _ _ _ := rfl
  hit := ⟨.inl, fun e => e.elim id fun ⟨y, x, hp, _⟩ => absurd hp (h y x)⟩

theorem Drawn.congr {P Q : Fin 32 → Fin 64 → Prop} (h : ∀ y x, P y x ↔ Q y x) {k k' : Canvas} (d : Drawn P k k') :
    Drawn Q k k' := by
  have : P = Q := by funext y x; exact propext (h y x)
  exact this ▸ d

/-- Drawing two disjoint sets one after the other draws their union. -/
theorem Drawn.trans {P Q : Fin 32 → Fin 64 → Prop} {k k' k'' : Canvas} (d : Drawn P k k') (e : Drawn Q k' k'')
    (disjoint : ∀ y x, P y x → ¬ Q y x) : Drawn (fun y x => P y x ∨ Q y x) k k'' where
  inside y x h := by
    by_cases hp : P y x
    · rw [e.outside y x (disjoint y x hp), d.inside y x hp]
    · rw [e.inside y x (h.resolve_left hp), d.outside y x hp]
  outside y x h := by
    rw [e.outside y x fun q => h (.inr q), d.outside y x fun p => h (.inl p)]
  hit := by
    rw [e.hit, d.hit]
    constructor
    · rintro ((h | ⟨y, x, hp, hx⟩) | ⟨y, x, hq, hx⟩)
      · exact .inl h
      · exact .inr ⟨y, x, .inl hp, hx⟩
      · refine .inr ⟨y, x, .inr hq, ?_⟩
        rwa [d.outside y x fun p => disjoint y x p hq] at hx
    · rintro (h | ⟨y, x, hp | hq, hx⟩)
      · exact .inl (.inl h)
      · exact .inl (.inr ⟨y, x, hp, hx⟩)
      · refine .inr ⟨y, x, hq, ?_⟩
        rwa [d.outside y x fun p => disjoint y x p hq]

/-- The pixel that bit `7 - c` of a row lands on, if the bit is set. -/
def BitLands (x0 y0 r : Nat) (row : Byte) (c : Nat) (y : Fin 32) (x : Fin 64) : Prop :=
  row.getLsbD (7 - c) = true ∧ x.val = (x0 + c) % 64 ∧ y.val = (y0 + r) % 32

theorem drawBit_drawn (x0 y0 r : Nat) (row : Byte) (k : Canvas) (c : Nat) :
    Drawn (BitLands x0 y0 r row c) k (drawBit x0 y0 r row k c) := by
  unfold drawBit
  by_cases hb : row.getLsbD (7 - c) = true
  · rw [if_pos hb]
    have key : ∀ (y : Fin 32) (x : Fin 64),
        BitLands x0 y0 r row c y x ↔ y = Fin.ofNat 32 (y0 + r) ∧ x = Fin.ofNat 64 (x0 + c) := by
      intro y x
      simp only [BitLands, hb, Fin.ext_iff, Fin.val_ofNat, true_and]
      exact and_comm
    refine Drawn.congr (fun y x => (key y x).symm) ⟨?_, ?_, ?_⟩
    · rintro y x ⟨rfl, rfl⟩
      simp [Screen.pixel_flip]
    · intro y x h
      simp only [Screen.pixel_flip, if_neg h]
    · simp
  · rw [if_neg hb]
    exact Drawn.nothing (fun _ _ h => hb h.1) k

/-- The columns `c` of a list, none beyond the 8 of a row and none twice, draw their set bits. -/
theorem drawBits_drawn (x0 y0 r : Nat) (row : Byte) (cs : List Nat) (k : Canvas) (hlt : ∀ c ∈ cs, c < 8)
    (hnd : cs.Nodup) :
    Drawn (fun y x => ∃ c ∈ cs, BitLands x0 y0 r row c y x) k (cs.foldl (drawBit x0 y0 r row) k) := by
  induction cs generalizing k with
  | nil => exact Drawn.nothing (by simp) k
  | cons c rest ih =>
    rw [List.nodup_cons] at hnd
    have d := (drawBit_drawn x0 y0 r row k c).trans
      (ih (drawBit x0 y0 r row k c) (fun c' h => hlt c' (List.mem_cons_of_mem _ h)) hnd.2) (by
        rintro y x ⟨_, hx, _⟩ ⟨c', hc', _, hx', _⟩
        have h1 := hlt c (List.mem_cons_self ..)
        have h2 := hlt c' (List.mem_cons_of_mem _ hc')
        have : c = c' := by omega
        exact hnd.1 (this ▸ hc'))
    exact d.congr fun y x => by simp

theorem drawRow_drawn (x0 y0 r : Nat) (row : Byte) (k : Canvas) :
    Drawn (fun y x => ∃ c < 8, BitLands x0 y0 r row c y x) k (drawRow x0 y0 r row k) :=
  (drawBits_drawn x0 y0 r row (List.range 8) k (by simp) List.nodup_range).congr fun y x => by simp

/-- At most 32 rows draw the set bits of each, one row below the other. -/
theorem drawRows_drawn (x0 y0 r : Nat) (rows : List Byte) (k : Canvas) (hlen : rows.length ≤ 32) :
    Drawn (fun y x => ∃ (j : Nat) (h : j < rows.length), ∃ c < 8, BitLands x0 y0 (r + j) rows[j] c y x) k
      (drawRows x0 y0 r rows k) := by
  induction rows generalizing r k with
  | nil => exact Drawn.nothing (by simp) k
  | cons row rest ih =>
    simp only [List.length_cons] at hlen
    have d := (drawRow_drawn x0 y0 r row k).trans (ih (r + 1) (drawRow x0 y0 r row k) (by omega)) (by
      rintro y x ⟨_, _, _, _, hy⟩ ⟨j, hj, _, _, _, _, hy'⟩
      omega)
    refine d.congr fun y x => ⟨?_, ?_⟩
    · rintro (h | ⟨j, hj, h⟩)
      · exact ⟨0, by simp, by simpa using h⟩
      · exact ⟨j + 1, by simpa using hj, by simpa [Nat.add_assoc, Nat.add_comm 1 j] using h⟩
    · rintro ⟨j, hj, h⟩
      cases j with
      | zero => exact .inl (by simpa using h)
      | succ j => exact .inr ⟨j, by simpa using hj, by simpa [Nat.add_assoc, Nat.add_comm 1 j] using h⟩

/-- A sprite of at most 32 rows at the origin `(vx mod 64, vy mod 32)` (R171, R172). -/
theorem drawSprite_drawn (vx vy : Byte) (rows : List Byte) (fb : Screen) (hlen : rows.length ≤ 32) :
    Drawn (fun y x => ∃ (j : Nat) (h : j < rows.length), ∃ c < 8, BitLands (vx.toNat % 64) (vy.toNat % 32) j rows[j] c y x)
      { fb := fb, hit := false } (drawSprite vx vy rows fb) :=
  (drawRows_drawn _ _ 0 rows { fb := fb, hit := false } hlen).congr fun y x => by simp

end Sys2Proof.Machine
end

