-- ==== Sys2Proof/Laws/Frames.lean ====
section
/-!
SUPPORT. The frame of each shared operation: what it leaves unchanged, said once.
-/

namespace Sys2Proof.Machine

theorem frame_setReg (s : State) (x : RegIdx) (u : Byte) : Frame { regs := [x] } s (s.setReg x u) where
  regs r h := State.reg_setReg_ne s u (by simpa using h)
  index _ := rfl
  pc _ := rfl
  stack _ := ⟨rfl, fun _ => rfl⟩
  dt _ := rfl
  st _ := rfl
  screen _ _ _ := rfl
  memory _ _ := rfl
  diag _ := rfl
  keys _ := rfl
  fault := ⟨rfl, rfl, rfl⟩
  input := ⟨rfl, rfl⟩
  model := ⟨rfl, rfl, rfl⟩

theorem frame_writeAlu (s : State) (x : RegIdx) (o : AluOut) : Frame { regs := [x, flagIdx] } s (s.writeAlu x o) where
  regs r h := by
    simp only [List.mem_cons, List.not_mem_nil, or_false, not_or] at h
    exact State.reg_writeAlu_other s o h.1 h.2
  index _ := rfl
  pc _ := rfl
  stack _ := ⟨rfl, fun _ => rfl⟩
  dt _ := rfl
  st _ := rfl
  screen _ _ _ := rfl
  memory _ _ := rfl
  diag _ := rfl
  keys _ := rfl
  fault := ⟨rfl, rfl, rfl⟩
  input := ⟨rfl, rfl⟩
  model := ⟨rfl, rfl, rfl⟩

theorem frame_jump (s : State) (w : Word) : Frame { pc := true } s (s.jump w) where
  regs _ _ := rfl
  index _ := rfl
  pc h := by simp at h
  stack _ := ⟨rfl, fun _ => rfl⟩
  dt _ := rfl
  st _ := rfl
  screen _ _ _ := rfl
  memory _ _ := rfl
  diag _ := rfl
  keys _ := rfl
  fault := ⟨rfl, rfl, rfl⟩
  input := ⟨rfl, rfl⟩
  model := ⟨rfl, rfl, rfl⟩

/-- A skip jumps, to PC + 2 or to where PC is. -/
theorem State.skipIf_eq_jump (s : State) (c : Bool) : s.skipIf c = s.jump (if c then s.pc + 2 else s.pc) := by
  cases c <;> rfl

theorem frame_skipIf (s : State) (c : Bool) : Frame { pc := true } s (s.skipIf c) := by
  rw [State.skipIf_eq_jump]
  exact frame_jump s _

theorem frame_setIndex (s : State) (w : Word) : Frame { index := true } s (s.setIndex w) where
  regs _ _ := rfl
  index h := by simp at h
  pc _ := rfl
  stack _ := ⟨rfl, fun _ => rfl⟩
  dt _ := rfl
  st _ := rfl
  screen _ _ _ := rfl
  memory _ _ := rfl
  diag _ := rfl
  keys _ := rfl
  fault := ⟨rfl, rfl, rfl⟩
  input := ⟨rfl, rfl⟩
  model := ⟨rfl, rfl, rfl⟩

theorem frame_signalUnknown (w : Word) (s : State) : Frame { diag := true } s (signalUnknown w s) where
  regs _ _ := rfl
  index _ := rfl
  pc _ := rfl
  stack _ := ⟨rfl, fun _ => rfl⟩
  dt _ := rfl
  st _ := rfl
  screen _ _ _ := rfl
  memory _ _ := rfl
  diag h := by simp at h
  keys _ := rfl
  fault := ⟨rfl, rfl, rfl⟩
  input := ⟨rfl, rfl⟩
  model := ⟨rfl, rfl, rfl⟩

/-- A store changes at most the bytes of its list, from its address up. -/
theorem frame_writeBytes (s : State) (a : Nat) (l : List Byte) (n : Nat) (hn : l.length = n) :
    Frame { memFrom := a, memLen := n } s (s.writeBytes a l) where
  regs r _ := State.reg_congr (by simp) r
  index _ := by simp
  pc _ := by simp
  stack _ := ⟨by simp, fun k => by simp [State.slot]⟩
  dt _ := by simp
  st _ := by simp
  screen _ y x := by simp [State.pixel]
  memory b h := State.readByte_writeBytes_outside s a l b (by rw [hn]; exact h)
  diag _ := by simp
  keys k := by simp
  fault := by simp
  input := by simp
  model := by simp

theorem frame_loadRegs (s : State) (x : RegIdx) (a : Nat) :
    Frame { regs := (List.finRange 16).take (x.val + 1) } s (s.loadRegs x a) where
  regs r h := by
    rw [State.reg_loadRegs, if_neg]
    intro hr
    apply h
    rw [List.mem_take_iff_getElem]
    refine ⟨r.val, ?_, by simp⟩
    have := r.isLt
    simp only [List.length_finRange]
    omega
  index _ := by simp
  pc _ := by simp
  stack _ := ⟨by simp, fun k => by simp [State.slot]⟩
  dt _ := by simp
  st _ := by simp
  screen _ y p := by simp [State.pixel]
  memory b _ := State.readByte_congr (by simp) (by simp) b
  diag _ := by simp
  keys k := by simp
  fault := by simp
  input := by simp
  model := by simp

/-- What an address reads as after a store in memory: the stored byte, or what it read as before. -/
theorem State.readByte_writeBytes (s : State) (a : Nat) (l : List Byte) (b : Nat) (hin : a + l.length ≤ memSize) :
    ((s.writeBytes a l).readByte b).toNat = readAfterStore s a (l.map BitVec.toNat) b := by
  unfold readAfterStore
  by_cases h : a ≤ b ∧ b < a + l.length
  · obtain ⟨j, rfl⟩ := Nat.exists_eq_add_of_le h.1
    have hj : j < l.length := by omega
    rw [State.readByte_writeBytes_inside s a l j hj hin, if_pos h.1, Nat.add_sub_cancel_left]
    simp [hj]
  · rw [State.readByte_writeBytes_outside s a l b h]
    split
    · rw [List.getD_eq_default _ _ (by rw [List.length_map]; omega)]
    · rfl

/-- The numbers of the registers a block store stores. -/
theorem State.regsUpTo_toNat (s : State) (x : RegIdx) :
    (s.regsUpTo x).map BitVec.toNat = ((List.finRange 16).take (x.val + 1)).map fun j => (s.reg j).toNat := by
  apply List.ext_getElem
  · simp [State.regsUpTo]
  · intro j h1 h2
    simp [State.regsUpTo, State.reg]

/-- The numbers of the digits LD B stores. -/
theorem bcdDigits_toNat (u : Byte) :
    (bcdDigits u).map BitVec.toNat = [u.toNat / 100, u.toNat / 10 % 10, u.toNat % 10] := by
  have := u.isLt
  simp only [bcdDigits, List.map_cons, List.map_nil, BitVec.toNat_ofNat]
  rw [Nat.mod_eq_of_lt (show u.toNat / 100 < 2 ^ 8 by omega), Nat.mod_eq_of_lt (show u.toNat / 10 % 10 < 2 ^ 8 by omega),
    Nat.mod_eq_of_lt (show u.toNat % 10 < 2 ^ 8 by omega)]

end Sys2Proof.Machine
end

