-- ==== Sys2Proof/Laws/Exec.lean ====
section
/-!
SUPPORT. What exec can answer, once for all instructions: an instruction either raises its fault of the fault table and writes
nothing else, or completes and leaves the keypad, the fault status, the inputs of the STEP and the model's own fields alone.
-/

namespace Sys2Proof.Machine

/-- The parts of the state that no completed instruction writes. -/
structure Kept (s t : State) : Prop where
  keys : t.keys = s.keys
  faulted : t.faulted = s.faulted
  faultCause : t.faultCause = s.faultCause
  faultPc : t.faultPc = s.faultPc
  rand : t.port.rand = s.port.rand
  opcode : t.port.opcode = s.port.opcode
  config : t.config = s.config
  inbox : t.inbox = s.inbox
  draws : t.draws = s.draws

theorem exec_ret_of_pos (s : State) (h : 0 < s.sp.val) :
    exec .ret s = .next { s with sp := ⟨s.sp.val - 1, by omega⟩, pc := s.stack[s.sp.val - 1]'(by omega) } := by
  simp only [exec, execRet, State.pop_of_pos s h]
  rfl

theorem exec_call_of_lt (nnn : Addr12) (s : State) (h : s.sp.val < 16) :
    exec (.call nnn) s = .next { s with stack := s.stack.set s.sp.val s.pc h, sp := ⟨s.sp.val + 1, by omega⟩, pc := zextAddr nnn } := by
  simp only [exec, execCall, State.push_of_lt s s.pc h]
  rfl

theorem exec_ldB_of_lt (x : RegIdx) (s : State) (h : s.i.toNat + 2 < 4096) :
    exec (.ldB x) s = .next (s.writeBytes s.i.toNat (bcdDigits (s.reg x))) := by
  simp only [exec, execLdB]
  rw [if_pos (by rw [inMemory_iff, State.indexAddr_zero]; omega)]
  rfl

theorem exec_ldMemVx_of_lt (x : RegIdx) (s : State) (h : s.i.toNat + x.val < 4096) :
    exec (.ldMemVx x) s = .next (s.writeBytes s.i.toNat (s.regsUpTo x)) := by
  simp only [exec, execLdMemVx]
  rw [if_pos (by rw [inMemory_iff, State.indexAddr_zero]; omega)]
  rfl

theorem exec_ldVxMem_of_lt (x : RegIdx) (s : State) (h : s.i.toNat + x.val < 4096) :
    exec (.ldVxMem x) s = .next (s.loadRegs x s.i.toNat) := by
  simp only [exec, execLdVxMem]
  rw [if_pos (by rw [inMemory_iff, State.indexAddr_zero]; omega)]
  rfl

/-- What DRW draws: the canvas of the sprite its operands name. -/
def drwCanvas (x y : RegIdx) (n : Fin 16) (s : State) : Canvas :=
  drawSprite (s.reg x) (s.reg y) (s.readBytes s.i.toNat n.val) s.fb

theorem exec_drw_of_lt (x y : RegIdx) (n : Fin 16) (s : State) (h : n.val = 0 ∨ s.i.toNat + n.val - 1 < 4096) :
    exec (.drw x y n) s =
      .next (({ s with fb := (drwCanvas x y n s).fb } : State).setReg flagIdx (flagByte (drwCanvas x y n s).hit)) := by
  simp only [exec, execDrw]
  rw [if_pos (by rw [inMemory_iff, State.indexAddr_zero]; omega)]
  rfl

/-- The canvas of a DRW is the framebuffer with exactly the pixels under the sprite inverted. -/
theorem drwCanvas_drawn (x y : RegIdx) (n : Fin 16) (s : State) :
    Drawn (UnderSprite s (s.reg x) (s.reg y) n.val) { fb := s.fb, hit := false } (drwCanvas x y n s) := by
  refine (drawSprite_drawn _ _ _ _ ?_).congr fun py px => ?_
  · rw [State.readBytes_length]
    omega
  · simp only [UnderSprite, BitLands, State.readBytes_getElem, State.readBytes_length]
    exact ⟨fun ⟨j, hj, c, hc, h⟩ => ⟨j, c, hj, hc, h⟩, fun ⟨j, c, hj, hc, h⟩ => ⟨j, hj, c, hc, h⟩⟩

theorem exec_skp_of_key (x : RegIdx) (s : State) (k : KeyIdx) (h : (s.reg x).toNat = k.val) :
    exec (.skp x) s = .next (s.skipIf s.keys[k]) := by
  simp only [exec, execSkp, State.keyLine_of_lt s _ k h]

theorem exec_sknp_of_key (x : RegIdx) (s : State) (k : KeyIdx) (h : (s.reg x).toNat = k.val) :
    exec (.sknp x) s = .next (s.skipIf (!s.keys[k])) := by
  simp only [exec, execSknp, State.keyLine_of_lt s _ k h]

/-- Where the condition of the fault table holds of an instruction, it raises that fault (R202). -/
theorem exec_of_instrFaults {s : State} {cause : FaultCause} {i : Instr} (h : InstrFaults s cause i) :
    exec i s = .next (raiseFault cause (s.pc - 2) s) := by
  cases cause <;> cases i <;> simp only [InstrFaults] at h
  case memRange.drw x y n =>
    simp only [exec, execDrw]
    rw [if_neg (by rw [inMemory_iff, State.indexAddr_zero]; omega)]
    rfl
  case memRange.ldB x =>
    simp only [exec, execLdB]
    rw [if_neg (by rw [inMemory_iff, State.indexAddr_zero]; omega)]
    rfl
  case memRange.ldMemVx x =>
    simp only [exec, execLdMemVx]
    rw [if_neg (by rw [inMemory_iff, State.indexAddr_zero]; omega)]
    rfl
  case memRange.ldVxMem x =>
    simp only [exec, execLdVxMem]
    rw [if_neg (by rw [inMemory_iff, State.indexAddr_zero]; omega)]
    rfl
  case stackOverflow.call nnn => simp only [exec, execCall, State.push_full s s.pc h, State.instrAddr]
  case stackUnderflow.ret => simp only [exec, execRet, State.pop_empty s h, State.instrAddr]
  case keyRange.skp x => simp only [exec, execSkp, State.keyLine_beyond s _ h, State.instrAddr]
  case keyRange.sknp x => simp only [exec, execSknp, State.keyLine_beyond s _ h, State.instrAddr]

/-- The two outcomes of an instruction: it completes, or the condition of the fault table holds and it raises that fault. -/
theorem exec_cases (i : Instr) (s : State) :
    (∃ t, exec i s = .next t ∧ Kept s t) ∨
    (∃ cause, cause ≠ .none ∧ InstrFaults s cause i ∧ exec i s = .next (raiseFault cause (s.pc - 2) s)) := by
  have faults : ∀ cause, cause ≠ .none → InstrFaults s cause i →
      ∃ cause, cause ≠ .none ∧ InstrFaults s cause i ∧ exec i s = .next (raiseFault cause (s.pc - 2) s) :=
    fun cause hc h => ⟨cause, hc, h, exec_of_instrFaults h⟩
  cases i
  case ret =>
    by_cases h : 0 < s.sp.val
    · exact .inl ⟨_, exec_ret_of_pos s h, ⟨rfl, rfl, rfl, rfl, rfl, rfl, rfl, rfl, rfl⟩⟩
    · exact .inr (faults .stackUnderflow (by decide) (show s.sp.val = 0 by omega))
  case call nnn =>
    by_cases h : s.sp.val < 16
    · exact .inl ⟨_, exec_call_of_lt nnn s h, ⟨rfl, rfl, rfl, rfl, rfl, rfl, rfl, rfl, rfl⟩⟩
    · exact .inr (faults .stackOverflow (by decide) (show s.sp.val = 16 by omega))
  case skp x =>
    by_cases h : (s.reg x).toNat < 16
    · exact .inl ⟨_, exec_skp_of_key x s ⟨_, h⟩ rfl, by constructor <;> simp⟩
    · exact .inr (faults .keyRange (by decide) (show _ > 0xF by omega))
  case sknp x =>
    by_cases h : (s.reg x).toNat < 16
    · exact .inl ⟨_, exec_sknp_of_key x s ⟨_, h⟩ rfl, by constructor <;> simp⟩
    · exact .inr (faults .keyRange (by decide) (show _ > 0xF by omega))
  case ldVxK x =>
    left
    simp only [exec, execLdVxK]
    split
    · exact ⟨_, rfl, ⟨rfl, rfl, rfl, rfl, rfl, rfl, rfl, rfl, rfl⟩⟩
    · exact ⟨_, rfl, ⟨rfl, rfl, rfl, rfl, rfl, rfl, rfl, rfl, rfl⟩⟩
  case drw x y n =>
    by_cases h : n.val = 0 ∨ s.i.toNat + n.val - 1 < 4096
    · exact .inl ⟨_, exec_drw_of_lt x y n s h, ⟨rfl, rfl, rfl, rfl, rfl, rfl, rfl, rfl, rfl⟩⟩
    · exact .inr (faults .memRange (by decide) (show _ ∧ _ by omega))
  case ldB x =>
    by_cases h : s.i.toNat + 2 < 4096
    · exact .inl ⟨_, exec_ldB_of_lt x s h, by constructor <;> simp⟩
    · exact .inr (faults .memRange (by decide) (show _ ≥ 4096 by omega))
  case ldMemVx x =>
    by_cases h : s.i.toNat + x.val < 4096
    · exact .inl ⟨_, exec_ldMemVx_of_lt x s h, by constructor <;> simp⟩
    · exact .inr (faults .memRange (by decide) (show _ ≥ 4096 by omega))
  case ldVxMem x =>
    by_cases h : s.i.toNat + x.val < 4096
    · exact .inl ⟨_, exec_ldVxMem_of_lt x s h, by constructor <;> simp⟩
    · exact .inr (faults .memRange (by decide) (show _ ≥ 4096 by omega))
  all_goals exact .inl ⟨_, rfl, by constructor <;> first | rfl | simp⟩

end Sys2Proof.Machine
end

