-- ==== Sys2Proof/Laws/Fields.lean ====
section
/-!
SUPPORT. The fields of a word that was laid out by a format of spec/30_encoding.md R75, and the number of such a word.
-/

namespace Sys2Proof

/-! ## Fields of a word, as numbers -/

theorem opField_toNat (w : Word) : (opField w).toNat = w.toNat / 4096 := by
  have := w.isLt
  simp only [opField, BitVec.extractLsb'_toNat, Nat.shiftRight_eq_div_pow]
  omega

theorem xField_val (w : Word) : (xField w).val = w.toNat / 256 % 16 := by
  show (w.extractLsb' 8 4).toNat = _
  simp only [BitVec.extractLsb'_toNat, Nat.shiftRight_eq_div_pow]

theorem yField_val (w : Word) : (yField w).val = w.toNat / 16 % 16 := by
  show (w.extractLsb' 4 4).toNat = _
  simp only [BitVec.extractLsb'_toNat, Nat.shiftRight_eq_div_pow]

theorem nField_val (w : Word) : (nField w).val = w.toNat % 16 := by
  show (w.extractLsb' 0 4).toNat = _
  simp only [BitVec.extractLsb'_toNat, Nat.shiftRight_eq_div_pow]
  simp

theorem kkField_toNat (w : Word) : (kkField w).toNat = w.toNat % 256 := by
  simp only [kkField, BitVec.extractLsb'_toNat, Nat.shiftRight_eq_div_pow]
  simp

theorem nnnField_toNat (w : Word) : (nnnField w).toNat = w.toNat % 4096 := by
  simp only [nnnField, BitVec.extractLsb'_toNat, Nat.shiftRight_eq_div_pow]
  simp

theorem highByte_toNat (w : Word) : (highByte w).toNat = w.toNat / 256 := by
  have := w.isLt
  simp only [highByte, BitVec.extractLsb'_toNat, Nat.shiftRight_eq_div_pow]
  omega

theorem lowByte_toNat (w : Word) : (lowByte w).toNat = w.toNat % 256 := by
  simp only [lowByte, BitVec.extractLsb'_toNat, Nat.shiftRight_eq_div_pow]
  simp

/-! ## Words laid out from their fields, as numbers -/

theorem toNat_append_mul {m k : Nat} (a : BitVec m) (b : BitVec k) : (a ++ b).toNat = a.toNat * 2 ^ k + b.toNat := by
  rw [BitVec.toNat_append, Nat.shiftLeft_eq, Nat.mul_comm, Nat.two_pow_add_eq_or_of_lt b.isLt]

theorem wordOfBytes_toNat (hi lo : Byte) : (wordOfBytes hi lo).toNat = 256 * hi.toNat + lo.toNat := by
  simp only [wordOfBytes, toNat_append_mul]
  omega

theorem encNNN_toNat (op : BitVec 4) (nnn : Addr12) : (encNNN op nnn).toNat = 4096 * op.toNat + nnn.toNat := by
  simp only [encNNN, toNat_append_mul]
  omega

theorem encXKK_toNat (op : BitVec 4) (x : RegIdx) (kk : Byte) :
    (encXKK op x kk).toNat = 4096 * op.toNat + 256 * x.val + kk.toNat := by
  simp only [encXKK, toNat_append_mul, BitVec.toNat_ofFin]
  omega

theorem encXYN_toNat (op : BitVec 4) (x y n : Fin 16) :
    (encXYN op x y n).toNat = 4096 * op.toNat + 256 * x.val + 16 * y.val + n.val := by
  simp only [encXYN, toNat_append_mul, BitVec.toNat_ofFin]
  omega

/-! ## The fields of a word that was laid out by a format -/

theorem wordOfBytes_high_low (w : Word) : wordOfBytes (highByte w) (lowByte w) = w := by
  apply BitVec.eq_of_toNat_eq
  rw [wordOfBytes_toNat, highByte_toNat, lowByte_toNat]
  omega

@[simp] theorem opField_encNNN (op : BitVec 4) (nnn : Addr12) : opField (encNNN op nnn) = op := by
  apply BitVec.eq_of_toNat_eq
  have := nnn.isLt
  rw [opField_toNat, encNNN_toNat]
  omega

@[simp] theorem nnnField_encNNN (op : BitVec 4) (nnn : Addr12) : nnnField (encNNN op nnn) = nnn := by
  apply BitVec.eq_of_toNat_eq
  have := nnn.isLt
  rw [nnnField_toNat, encNNN_toNat]
  omega

@[simp] theorem opField_encXKK (op : BitVec 4) (x : RegIdx) (kk : Byte) : opField (encXKK op x kk) = op := by
  apply BitVec.eq_of_toNat_eq
  have := kk.isLt
  have := x.isLt
  rw [opField_toNat, encXKK_toNat]
  omega

@[simp] theorem xField_encXKK (op : BitVec 4) (x : RegIdx) (kk : Byte) : xField (encXKK op x kk) = x := by
  apply Fin.ext
  have := kk.isLt
  have := x.isLt
  rw [xField_val, encXKK_toNat]
  omega

@[simp] theorem kkField_encXKK (op : BitVec 4) (x : RegIdx) (kk : Byte) : kkField (encXKK op x kk) = kk := by
  apply BitVec.eq_of_toNat_eq
  have := kk.isLt
  rw [kkField_toNat, encXKK_toNat]
  omega

@[simp] theorem opField_encXYN (op : BitVec 4) (x y n : Fin 16) : opField (encXYN op x y n) = op := by
  apply BitVec.eq_of_toNat_eq
  rw [opField_toNat, encXYN_toNat]
  omega

@[simp] theorem xField_encXYN (op : BitVec 4) (x y n : Fin 16) : xField (encXYN op x y n) = x := by
  apply Fin.ext
  rw [xField_val, encXYN_toNat]
  omega

@[simp] theorem yField_encXYN (op : BitVec 4) (x y n : Fin 16) : yField (encXYN op x y n) = y := by
  apply Fin.ext
  rw [yField_val, encXYN_toNat]
  omega

@[simp] theorem nField_encXYN (op : BitVec 4) (x y n : Fin 16) : nField (encXYN op x y n) = n := by
  apply Fin.ext
  rw [nField_val, encXYN_toNat]
  omega

end Sys2Proof
end

