-- ==== Sys2Proof/Laws/PerInstr.lean ====
section
/-!
SUPPORT. Laws of every instruction as syntax, one lemma per constructor. RowBits: the word of an instruction has the fixed bits of
its row in spec/opcode_table.json.
-/

namespace Sys2Proof.Laws

/-! ## The mask of a row keeps its fixed bits and clears its fields -/

theorem mask_encNNN (op : BitVec 4) (nnn : Addr12) : encNNN op nnn &&& 0xF000#16 = encNNN op 0 := by
  apply BitVec.eq_of_getLsbD_eq
  intro k hk
  simp only [encNNN, BitVec.getLsbD_and, BitVec.getLsbD_append]
  interval_cases k <;> simp
theorem mask_encXYN (op : BitVec 4) (x y n : Fin 16) : encXYN op x y n &&& 0xF00F#16 = encXYN op 0 0 n := by
  apply BitVec.eq_of_getLsbD_eq
  intro k hk
  simp only [encXYN, BitVec.getLsbD_and, BitVec.getLsbD_append]
  interval_cases k <;> simp
theorem mask_encXKK (op : BitVec 4) (x : RegIdx) (kk : Byte) : encXKK op x kk &&& 0xF0FF#16 = encXKK op 0 kk := by
  apply BitVec.eq_of_getLsbD_eq
  intro k hk
  simp only [encXKK, BitVec.getLsbD_and, BitVec.getLsbD_append]
  interval_cases k <;> simp
theorem mask_op_encXKK (op : BitVec 4) (x : RegIdx) (kk : Byte) : encXKK op x kk &&& 0xF000#16 = encXKK op 0 0 := by
  apply BitVec.eq_of_getLsbD_eq
  intro k hk
  simp only [encXKK, BitVec.getLsbD_and, BitVec.getLsbD_append]
  interval_cases k <;> simp
theorem mask_op_encXYN (op : BitVec 4) (x y n : Fin 16) : encXYN op x y n &&& 0xF000#16 = encXYN op 0 0 0 := by
  apply BitVec.eq_of_getLsbD_eq
  intro k hk
  simp only [encXYN, BitVec.getLsbD_and, BitVec.getLsbD_append]
  interval_cases k <;> simp

/-- The word of the instruction, masked by its row's mask, is its row's match. -/
def RowBits.Statement (i : Instr) : Prop := encode i &&& (opcodeRow i).1 = (opcodeRow i).2

theorem RowBits.cls : RowBits.Statement .cls := by unfold RowBits.Statement; decide
theorem RowBits.ret : RowBits.Statement .ret := by unfold RowBits.Statement; decide
theorem RowBits.sys (nnn : Addr12) : RowBits.Statement (.sys nnn) := mask_encNNN 0x0#4 nnn
theorem RowBits.jp (nnn : Addr12) : RowBits.Statement (.jp nnn) := mask_encNNN 0x1#4 nnn
theorem RowBits.call (nnn : Addr12) : RowBits.Statement (.call nnn) := mask_encNNN 0x2#4 nnn
theorem RowBits.seImm (x : RegIdx) (kk : Byte) : RowBits.Statement (.seImm x kk) := mask_op_encXKK 0x3#4 x kk
theorem RowBits.sneImm (x : RegIdx) (kk : Byte) : RowBits.Statement (.sneImm x kk) := mask_op_encXKK 0x4#4 x kk
theorem RowBits.seReg (x y : RegIdx) : RowBits.Statement (.seReg x y) := mask_encXYN 0x5#4 x y 0x0
theorem RowBits.ldImm (x : RegIdx) (kk : Byte) : RowBits.Statement (.ldImm x kk) := mask_op_encXKK 0x6#4 x kk
theorem RowBits.addImm (x : RegIdx) (kk : Byte) : RowBits.Statement (.addImm x kk) := mask_op_encXKK 0x7#4 x kk
theorem RowBits.ldReg (x y : RegIdx) : RowBits.Statement (.ldReg x y) := mask_encXYN 0x8#4 x y 0x0
theorem RowBits.orReg (x y : RegIdx) : RowBits.Statement (.orReg x y) := mask_encXYN 0x8#4 x y 0x1
theorem RowBits.andReg (x y : RegIdx) : RowBits.Statement (.andReg x y) := mask_encXYN 0x8#4 x y 0x2
theorem RowBits.xorReg (x y : RegIdx) : RowBits.Statement (.xorReg x y) := mask_encXYN 0x8#4 x y 0x3
theorem RowBits.addReg (x y : RegIdx) : RowBits.Statement (.addReg x y) := mask_encXYN 0x8#4 x y 0x4
theorem RowBits.subReg (x y : RegIdx) : RowBits.Statement (.subReg x y) := mask_encXYN 0x8#4 x y 0x5
theorem RowBits.shr (x y : RegIdx) : RowBits.Statement (.shr x y) := mask_encXYN 0x8#4 x y 0x6
theorem RowBits.subn (x y : RegIdx) : RowBits.Statement (.subn x y) := mask_encXYN 0x8#4 x y 0x7
theorem RowBits.shl (x y : RegIdx) : RowBits.Statement (.shl x y) := mask_encXYN 0x8#4 x y 0xE
theorem RowBits.sneReg (x y : RegIdx) : RowBits.Statement (.sneReg x y) := mask_encXYN 0x9#4 x y 0x0
theorem RowBits.ldI (nnn : Addr12) : RowBits.Statement (.ldI nnn) := mask_encNNN 0xA#4 nnn
theorem RowBits.jpV0 (nnn : Addr12) : RowBits.Statement (.jpV0 nnn) := mask_encNNN 0xB#4 nnn
theorem RowBits.rnd (x : RegIdx) (kk : Byte) : RowBits.Statement (.rnd x kk) := mask_op_encXKK 0xC#4 x kk
theorem RowBits.drw (x y : RegIdx) (n : Fin 16) : RowBits.Statement (.drw x y n) := mask_op_encXYN 0xD#4 x y n
theorem RowBits.skp (x : RegIdx) : RowBits.Statement (.skp x) := mask_encXKK 0xE#4 x 0x9E#8
theorem RowBits.sknp (x : RegIdx) : RowBits.Statement (.sknp x) := mask_encXKK 0xE#4 x 0xA1#8
theorem RowBits.ldVxDt (x : RegIdx) : RowBits.Statement (.ldVxDt x) := mask_encXKK 0xF#4 x 0x07#8
theorem RowBits.ldVxK (x : RegIdx) : RowBits.Statement (.ldVxK x) := mask_encXKK 0xF#4 x 0x0A#8
theorem RowBits.ldDtVx (x : RegIdx) : RowBits.Statement (.ldDtVx x) := mask_encXKK 0xF#4 x 0x15#8
theorem RowBits.ldStVx (x : RegIdx) : RowBits.Statement (.ldStVx x) := mask_encXKK 0xF#4 x 0x18#8
theorem RowBits.addI (x : RegIdx) : RowBits.Statement (.addI x) := mask_encXKK 0xF#4 x 0x1E#8
theorem RowBits.ldF (x : RegIdx) : RowBits.Statement (.ldF x) := mask_encXKK 0xF#4 x 0x29#8
theorem RowBits.ldB (x : RegIdx) : RowBits.Statement (.ldB x) := mask_encXKK 0xF#4 x 0x33#8
theorem RowBits.ldMemVx (x : RegIdx) : RowBits.Statement (.ldMemVx x) := mask_encXKK 0xF#4 x 0x55#8
theorem RowBits.ldVxMem (x : RegIdx) : RowBits.Statement (.ldVxMem x) := mask_encXKK 0xF#4 x 0x65#8

end Sys2Proof.Laws
end

