-- ==== Sys2Proof/Laws/Scheduler.lean ====
section
/-!
SUPPORT. What one drain of the scheduler does, said once: which step is due, what draining it takes, and the whole drain.
-/

namespace Sys2Proof.Machine

theorem Scheduler.due_step {h : HostConfig} {k : Scheduler} (hd : k.due h = some .instructionStep) : h.clockHz ≤ k.stepAcc := by
  unfold Scheduler.due at hd
  split at hd <;> simp_all

theorem Scheduler.due_tick {h : HostConfig} {k : Scheduler} (hd : k.due h = some .timerStep) : h.clockHz ≤ k.tickAcc := by
  unfold Scheduler.due at hd
  split at hd <;> simp_all

theorem Scheduler.due_none {h : HostConfig} {k : Scheduler} (hd : k.due h = none) :
    k.stepAcc < h.clockHz ∧ k.tickAcc < h.clockHz := by
  unfold Scheduler.due at hd
  split at hd <;> simp_all

/-- Draining the due step takes one from the number of due steps. -/
theorem Scheduler.dueCount_drainOne {h : HostConfig} {k : Scheduler} (hp : 0 < h.clockHz) :
    ∀ {d}, k.due h = some d → (k.drainOne h d).dueCount h + 1 = k.dueCount h
  | .instructionStep, hd => by
    have := Nat.div_eq_sub_div hp (Scheduler.due_step hd)
    simp only [Scheduler.drainOne, Scheduler.dueCount]
    omega
  | .timerStep, hd => by
    have := Nat.div_eq_sub_div hp (Scheduler.due_tick hd)
    simp only [Scheduler.drainOne, Scheduler.dueCount]
    omega

/-- Draining the due step takes exactly one period from its accumulator and nothing from the other. -/
theorem Scheduler.drainOne_takes {h : HostConfig} {k : Scheduler} : ∀ {d}, k.due h = some d →
    (k.drainOne h d).stepAcc + h.clockHz * stepsOf .instructionStep [d] = k.stepAcc ∧
    (k.drainOne h d).tickAcc + h.clockHz * stepsOf .timerStep [d] = k.tickAcc
  | .instructionStep, hd => by
    have := Scheduler.due_step hd
    simp [Scheduler.drainOne, stepsOf]
    omega
  | .timerStep, hd => by
    have := Scheduler.due_tick hd
    simp [Scheduler.drainOne, stepsOf]
    omega

theorem stepsOf_cons (d e : Dispatched) (ds : List Dispatched) : stepsOf d (e :: ds) = stepsOf d ds + stepsOf d [e] := by
  simp only [stepsOf, List.count_cons, List.count_nil]
  omega

theorem stepsOf_append (d : Dispatched) (ds es : List Dispatched) : stepsOf d (ds ++ es) = stepsOf d ds + stepsOf d es :=
  List.count_append

/-- A drain with fuel for every due step leaves none due, and takes one period for each step it dispatches. -/
theorem Scheduler.drain_takes {h : HostConfig} (hp : 0 < h.clockHz) : ∀ (fuel : Nat) (k : Scheduler), k.dueCount h ≤ fuel →
    (Scheduler.drain h fuel k).1.stepAcc < h.clockHz ∧ (Scheduler.drain h fuel k).1.tickAcc < h.clockHz ∧
    (Scheduler.drain h fuel k).1.lastSeen = k.lastSeen ∧
    (Scheduler.drain h fuel k).1.stepAcc + h.clockHz * stepsOf .instructionStep (Scheduler.drain h fuel k).2 = k.stepAcc ∧
    (Scheduler.drain h fuel k).1.tickAcc + h.clockHz * stepsOf .timerStep (Scheduler.drain h fuel k).2 = k.tickAcc
  | 0, k, hk => by
    simp only [Scheduler.dueCount] at hk
    have hz := Nat.add_eq_zero_iff.1 (Nat.le_zero.1 hk)
    exact ⟨(Nat.div_eq_zero_iff_lt hp).1 hz.1, (Nat.div_eq_zero_iff_lt hp).1 hz.2, rfl, rfl, rfl⟩
  | fuel + 1, k, hk => by
    simp only [Scheduler.drain]
    cases hd : k.due h with
    | none => exact ⟨(Scheduler.due_none hd).1, (Scheduler.due_none hd).2, rfl, rfl, rfl⟩
    | some d =>
      obtain ⟨h1, h2, h3, h4, h5⟩ := Scheduler.drain_takes hp fuel (k.drainOne h d) (by
        have := Scheduler.dueCount_drainOne hp hd
        omega)
      have one := Scheduler.drainOne_takes hd
      refine ⟨h1, h2, h3.trans (by cases d <;> rfl), ?_, ?_⟩
      · rw [stepsOf_cons, Nat.mul_add, ← Nat.add_assoc, h4]
        exact one.1
      · rw [stepsOf_cons, Nat.mul_add, ← Nat.add_assoc, h5]
        exact one.2

end Sys2Proof.Machine
end

