-- ==== Sys2Proof/Laws/Step.lean ====
section
/-!
SUPPORT. What a STEP and a step can do, once: the cases of a STEP (R70) and of the command that is performed (R225).
-/

namespace Sys2Proof.Machine

theorem State.fetchWord_of_lt (s : State) (h : s.pc.toNat + 1 < 4096) :
    s.fetchWord = some (wordOfBytes (s.readByte s.pc.toNat) (s.readByte (s.pc.toNat + 1))) := by
  simp only [State.fetchWord]
  rw [if_pos h]

theorem State.fetchWord_beyond (s : State) (h : s.pc.toNat + 1 ≥ 4096) : s.fetchWord = none := by
  simp only [State.fetchWord]
  rw [if_neg (by simp only [memSize]; omega)]

theorem stepCore_of_faulted (r : Byte) (s : State) (h : s.faulted = true) : stepCore r s = .next s := by
  simp [stepCore, h]

theorem stepCore_beyond (r : Byte) (s : State) (hf : s.faulted = false) (h : s.pc.toNat + 1 ≥ 4096) :
    stepCore r s = .next (raiseFault .fetchRange s.pc (beginStep r s)) := by
  simp [stepCore, hf, State.fetchWord_beyond s h]

theorem stepCore_fetched (r : Byte) (s : State) (hf : s.faulted = false) (h : s.pc.toNat + 1 < 4096) :
    stepCore r s =
      executeWord (wordOfBytes (s.readByte s.pc.toNat) (s.readByte (s.pc.toNat + 1)))
        (advance (wordOfBytes (s.readByte s.pc.toNat) (s.readByte (s.pc.toNat + 1))) (beginStep r s)) := by
  simp [stepCore, hf, State.fetchWord_of_lt s h]

/-- Decoding the two bytes of a word is decoding the word. -/
theorem decodeBytes_pair (m : Decode59) (hi lo : Byte) (i : Instr) :
    decodeBytes m [hi, lo] = .ok (i, []) ↔ decode m (wordOfBytes hi lo) = .ok i := by
  simp only [decodeBytes]
  cases decode m (wordOfBytes hi lo) with
  | ok j => simp [Except.map]
  | error e => simp [Except.map]

/-- The address of the instruction, seen while it executes. -/
theorem advance_pc_sub (w : Word) (s : State) : (advance w s).pc - 2 = s.pc := by
  simp

/-- The cases of a STEP of a CORE that is not faulted: the fetch fault, the diagnostic of an unknown word, an instruction that
completes, or an instruction that raises its fault. -/
theorem stepCore_cases (r : Byte) (s : State) (hf : s.faulted = false) :
    (s.pc.toNat + 1 ≥ 4096 ∧ stepCore r s = .next (raiseFault .fetchRange s.pc (beginStep r s))) ∨
    (s.pc.toNat + 1 < 4096 ∧ ∃ w, w = wordOfBytes (s.readByte s.pc.toNat) (s.readByte (s.pc.toNat + 1)) ∧
      (((∃ e, decode s.config.decode59 w = .error e) ∧ stepCore r s = .next (signalUnknown w (advance w (beginStep r s)))) ∨
      ∃ i, decode s.config.decode59 w = .ok i ∧ stepCore r s = exec i (advance w (beginStep r s)))) := by
  by_cases h : s.pc.toNat + 1 < 4096
  · refine .inr ⟨h, _, rfl, ?_⟩
    rw [stepCore_fetched r s hf h, executeWord]
    cases hd : decode s.config.decode59 (wordOfBytes (s.readByte s.pc.toNat) (s.readByte (s.pc.toNat + 1))) with
    | error e => exact .inl ⟨⟨e, rfl⟩, by simp [hd]⟩
    | ok i => exact .inr ⟨i, rfl, by simp [hd]⟩
  · exact .inl ⟨by omega, stepCore_beyond r s hf (by omega)⟩

/-- A step performs the oldest queued command, or a STEP where none is queued. -/
theorem step_cases (s : State) :
    (∃ c rest, s.inbox = c :: rest ∧ step s = perform c { s with inbox := rest }) ∨
    (s.inbox = [] ∧ step s = stepCore (Config.freeRand s.draws) s) := by
  unfold step nextCommand
  cases s.inbox with
  | nil => exact .inr ⟨rfl, rfl⟩
  | cons c rest => exact .inl ⟨c, rest, rfl, rfl⟩

end Sys2Proof.Machine
end

