-- ==== Sys2Proof/Tests/Slice0.lean ====
section
/-!
SUPPORT. The model's own tests. The expected results are those of spec/95_test_vectors.md (its ids are in the names or the comments)
or the encodings of spec/30_encoding.md. A theorem named test_witness_X shows that the hypotheses of Obligations.X can be met, at a
boundary of each of its clauses where it has several.
-/

namespace Sys2Proof.Tests

open Sys2Proof.Machine

/-! ## Helpers -/

/-- Whether an outcome is a next state that passes a check. -/
def nextIs (o : Host.Outcome State Fault Refusal) (check : State → Bool) : Bool :=
  match o with
  | .next t => check t
  | .fault _ => false
  | .refused _ => false

/-- The reset state with a word at 0x200, the common start state of spec/95_test_vectors.md. -/
def start (w : Nat) : State := State.reset.withFetchWord 16 w

/-- A start state with one register set. -/
def start1 (w : Nat) (x : RegIdx) (u : Byte) : State := (start w).setReg x u

/-- A start state with two registers set. -/
def start2 (w : Nat) (x : RegIdx) (u : Byte) (y : RegIdx) (v : Byte) : State := (start1 w x u).setReg y v

/-- A start state of the V-ALU vectors: VF = AA, V1 and V2 set. -/
def startAlu (w : Nat) (u v : Byte) : State := ((start w).setReg 15 0xAA).setReg 1 u |>.setReg 2 v

/-- After one step VF and V1 hold these values and PC is 0x202. -/
def aluIs (s : State) (v1 vf : Byte) : Bool := nextIs (step s) fun t => t.reg 1 == v1 && t.reg 15 == vf && t.pc == 0x202

/-- A start state with I = 0x300 and one sprite byte there. -/
def startDraw (w : Nat) (row : Byte) : State := ((start w).setIndex 0x300).writeByte 0x300 row

/-- The pixels of a row that are on, among the columns 0 to 7 and 56 to 63. -/
def rowOn (s : State) (y : Fin 32) : List (Fin 64) :=
  [0, 1, 2, 3, 4, 5, 6, 7, 56, 57, 58, 59, 60, 61, 62, 63].filter fun x => s.pixel y x

/-- The state has faulted with a cause, at 0x200. -/
def faultIs (t : State) (cause : FaultCause) : Bool :=
  t.faulted && t.faultCause == cause && t.faultPc == 0x200 && t.pc == 0x200

/-! ## Well-formedness: words of another row are refused (R77) -/

theorem test_wellFormed_refuses_cls_as_sys : (Instr.sys 0x0E0).wellFormed = false := by decide
theorem test_wellFormed_refuses_ret_as_sys : (Instr.sys 0x0EE).wellFormed = false := by decide
theorem test_wellFormed_takes_sys_beside_them :
    ((Instr.sys 0x1E0).wellFormed && (Instr.sys 0x0EF).wellFormed && (Instr.sys 0x000).wellFormed) = true := by decide

/-! ## Decoding: every constructor by a word written out bit by bit from R75 and R76 -/

theorem test_decode_family_0 :
    decodeTableWord 16 0b0000000011100000 = some .cls ∧
    decodeTableWord 16 0b0000000011101110 = some .ret ∧
    decodeTableWord 16 0b0000000100100011 = some (.sys 0x123) := by decide
theorem test_decode_families_1_to_4 :
    decodeTableWord 16 0b0001001000000000 = some (.jp 0x200) ∧
    decodeTableWord 16 0b0010001111110001 = some (.call 0x3F1) ∧
    decodeTableWord 16 0b0011101101011100 = some (.seImm 0xB 0x5C) ∧
    decodeTableWord 16 0b0100110101011100 = some (.sneImm 0xD 0x5C) := by decide
theorem test_decode_families_5_to_7 :
    decodeTableWord 16 0b0101000100100000 = some (.seReg 1 2) ∧
    decodeTableWord 16 0b0110000000000101 = some (.ldImm 0 0x05) ∧
    decodeTableWord 16 0b0111001000000001 = some (.addImm 2 0x01) := by decide
theorem test_decode_family_8 :
    decodeTableWord 16 0b1000101011000000 = some (.ldReg 0xA 0xC) ∧
    decodeTableWord 16 0b1000101011000001 = some (.orReg 0xA 0xC) ∧
    decodeTableWord 16 0b1000101011000010 = some (.andReg 0xA 0xC) ∧
    decodeTableWord 16 0b1000101011000011 = some (.xorReg 0xA 0xC) ∧
    decodeTableWord 16 0b1000101011000100 = some (.addReg 0xA 0xC) ∧
    decodeTableWord 16 0b1000101011000101 = some (.subReg 0xA 0xC) ∧
    decodeTableWord 16 0b1000101011000110 = some (.shr 0xA 0xC) ∧
    decodeTableWord 16 0b1000101011000111 = some (.subn 0xA 0xC) ∧
    decodeTableWord 16 0b1000101011001110 = some (.shl 0xA 0xC) := by decide
theorem test_decode_families_9_to_D :
    decodeTableWord 16 0b1001000100100000 = some (.sneReg 1 2) ∧
    decodeTableWord 16 0b1010001011110000 = some (.ldI 0x2F0) ∧
    decodeTableWord 16 0b1011001100000001 = some (.jpV0 0x301) ∧
    decodeTableWord 16 0b1100001100001111 = some (.rnd 3 0x0F) ∧
    decodeTableWord 16 0b1101101010110010 = some (.drw 0xA 0xB 2) := by decide
theorem test_decode_family_E :
    decodeTableWord 16 0b1110001010011110 = some (.skp 2) ∧
    decodeTableWord 16 0b1110001010100001 = some (.sknp 2) := by decide
theorem test_decode_family_F :
    decodeTableWord 16 0b1111001100000111 = some (.ldVxDt 3) ∧
    decodeTableWord 16 0b1111000100001010 = some (.ldVxK 1) ∧
    decodeTableWord 16 0b1111010000010101 = some (.ldDtVx 4) ∧
    decodeTableWord 16 0b1111010000011000 = some (.ldStVx 4) ∧
    decodeTableWord 16 0b1111000100011110 = some (.addI 1) ∧
    decodeTableWord 16 0b1111001000101001 = some (.ldF 2) ∧
    decodeTableWord 16 0b1111000000110011 = some (.ldB 0) ∧
    decodeTableWord 16 0b1111111101010101 = some (.ldMemVx 0xF) ∧
    decodeTableWord 16 0b1111111101100101 = some (.ldVxMem 0xF) := by decide

/-- V-DEC-1, V-DEC-3, V-DEC-5, V-DEC-6, V-DEC-7, by the names of their rejections. -/
theorem test_decode_rejects_by_name :
    decode .strict 0x5121 = .error .unknown5 ∧ decode .strict 0x9121 = .error .unknown9 ∧
    decode .lax 0x8008 = .error .unknown8 ∧ decode .lax 0x800F = .error .unknown8 ∧
    decode .lax 0xE000 = .error .unknownE ∧ decode .lax 0xF000 = .error .unknownF ∧
    decode .lax 0xF0FF = .error .unknownF ∧ decodeBytes .lax [0x60] = .error .truncated := by decide
/-- V-DEC-2 and V-DEC-4. -/
theorem test_decode_lax :
    decode .lax 0x5121 = .ok (.seReg 1 2) ∧ decode .lax 0x9121 = .ok (.sneReg 1 2) := by decide
/-- V-DEC-1: the unknown word is stepped over with a diagnostic. -/
theorem test_step_unknown_word :
    nextIs (step (start 0x5121)) (fun t => t.pc == 0x202 && t.port.diag == some ⟨0x200, 0x5121⟩ && !t.faulted) = true := by decide

/-! ## Control transfer (V-CTL) -/

theorem test_call : nextIs (step (start 0x2300))
    (fun t => t.pc == 0x300 && t.sp == 1 && t.slot 0 == 0x202) = true := by decide
theorem test_call_overflow : nextIs (step { start 0x2300 with sp := 16 })
    (fun t => faultIs t .stackOverflow && t.sp == 16) = true := by decide
theorem test_ret : nextIs (step { start 0x00EE with sp := 1, stack := Vector.replicate 16 0x202 })
    (fun t => t.pc == 0x202 && t.sp == 0 && t.slot 0 == 0x202) = true := by decide
theorem test_ret_underflow : nextIs (step (start 0x00EE)) (fun t => faultIs t .stackUnderflow) = true := by decide
theorem test_jp : nextIs (step (start 0x1FFF)) (fun t => t.pc == 0xFFF && !t.faulted) = true := by decide
theorem test_jp_then_fetch_fault : nextIs (step { start 0x1FFF with pc := 0xFFF })
    (fun t => t.faultCause == .fetchRange && t.faultPc == 0xFFF && t.pc == 0xFFF) = true := by decide
theorem test_jpV0 : nextIs (step (start1 0xBFFF 0 0xFF)) (fun t => t.pc == 0x10FE) = true := by decide
theorem test_jpV0_ignores_x : nextIs (step (start2 0xB300 0 0x04 3 0x77)) (fun t => t.pc == 0x304) = true := by decide
theorem test_seImm : nextIs (step (start1 0x3310 3 0x10)) (fun t => t.pc == 0x204) = true := by decide
theorem test_seImm_not : nextIs (step (start1 0x3310 3 0x11)) (fun t => t.pc == 0x202) = true := by decide
theorem test_sneImm : nextIs (step (start1 0x4310 3 0x11)) (fun t => t.pc == 0x204) = true := by decide
theorem test_sneImm_not : nextIs (step (start1 0x4310 3 0x10)) (fun t => t.pc == 0x202) = true := by decide
theorem test_seReg : nextIs (step (start2 0x5120 1 7 2 7)) (fun t => t.pc == 0x204) = true := by decide
theorem test_seReg_not : nextIs (step (start2 0x5120 1 7 2 8)) (fun t => t.pc == 0x202) = true := by decide
theorem test_sneReg : nextIs (step (start2 0x9120 1 7 2 8)) (fun t => t.pc == 0x204) = true := by decide
theorem test_sneReg_same : nextIs (step (start1 0x9110 1 7)) (fun t => t.pc == 0x202) = true := by decide
theorem test_sys : nextIs (step (start 0x0123))
    (fun t => t.pc == 0x202 && t.port.diag == some ⟨0x200, 0x123⟩) = true := by decide
/-- V-DEC-8. -/
theorem test_sys_near_cls : nextIs (step { start 0x01E0 with fb := Screen.blank.flip 3 5 })
    (fun t => t.pc == 0x202 && t.pixel 3 5) = true := by decide

/-! ## Register loads and ALU (V-ALU) -/

theorem test_ldImm : nextIs (step (start 0x6A7B)) (fun t => t.reg 0xA == 0x7B && t.reg 0xB == 0) = true := by decide
theorem test_addImm : nextIs (step (startAlu 0x7201 0 0xFF)) (fun t => t.reg 2 == 0x00 && t.reg 15 == 0xAA) = true := by decide
theorem test_ldReg : aluIs (startAlu 0x8120 0x12 0x34) 0x34 0xAA = true := by decide
theorem test_orReg : aluIs (startAlu 0x8121 0x0F 0xF0) 0xFF 0xAA = true := by decide
theorem test_andReg : aluIs (startAlu 0x8122 0x3C 0x0F) 0x0C 0xAA = true := by decide
theorem test_xorReg : aluIs (startAlu 0x8123 0x3C 0x0F) 0x33 0xAA = true := by decide
theorem test_addReg : aluIs (startAlu 0x8124 0xC8 0x64) 0x2C 0x01 = true := by decide
/-- V-ALU-33: the flag is written last. -/
theorem test_addReg_flag_last : nextIs (step (start2 0x8F14 15 0xFF 1 0x01)) (fun t => t.reg 15 == 0x01) = true := by decide
theorem test_subReg_equal : aluIs (startAlu 0x8125 0x05 0x05) 0x00 0x01 = true := by decide
theorem test_subReg_borrow : aluIs (startAlu 0x8125 0x05 0x07) 0xFE 0x00 = true := by decide
/-- V-ALU-23: Vy is ignored. -/
theorem test_shr : aluIs (startAlu 0x8126 0x04 0x55) 0x02 0x00 = true := by decide
theorem test_shr_flag : aluIs (startAlu 0x8106 0xFF 0) 0x7F 0x01 = true := by decide
theorem test_subn : aluIs (startAlu 0x8127 0x05 0x07) 0x02 0x01 = true := by decide
theorem test_subn_borrow : aluIs (startAlu 0x8127 0x01 0x00) 0xFF 0x00 = true := by decide
theorem test_shl : aluIs (startAlu 0x810E 0x7F 0) 0xFE 0x00 = true := by decide
theorem test_shl_flag : aluIs (startAlu 0x810E 0x80 0) 0x00 0x01 = true := by decide
/-- V-ALU-42. -/
theorem test_rnd : nextIs (step { start 0xC30F with inbox := [.step 0xA7] }) (fun t => t.reg 3 == 0x07) = true := by decide
/-- V-ALU-43. -/
theorem test_rnd_all : nextIs (step { start 0xC3FF with inbox := [.step 0xFF] }) (fun t => t.reg 3 == 0xFF) = true := by decide

/-! ## Index register and memory (V-MEM) -/

theorem test_ldI : nextIs (step (start 0xA2F0)) (fun t => t.i == 0x2F0) = true := by decide
theorem test_addI : nextIs (step ((start2 0xF11E 1 0x01 15 0xAA).setIndex 0xFFF))
    (fun t => t.i == 0x1000 && t.reg 15 == 0xAA) = true := by decide
theorem test_addI_wraps : nextIs (step ((start1 0xF11E 1 0x01).setIndex 0xFFFF)) (fun t => t.i == 0) = true := by decide
/-- V-MEM-7, with V2 = FF: no mask. -/
theorem test_ldF : nextIs (step (start1 0xF229 2 0xFF)) (fun t => t.i == 0x4FB) = true := by decide
/-- V-MEM-8, with FONT_BASE = 050. -/
theorem test_ldF_other_base :
    nextIs (exec (.ldF 2) ((State.resetFor { Config.default with fontBase := 0x50 }).setReg 2 0x0A)) (fun t => t.i == 0x82) = true := by
  decide
theorem test_ldB : nextIs (step ((start1 0xF033 0 255).setIndex 0xFFD))
    (fun t => t.readBytes 0xFFD 3 == [2, 5, 5] && t.i == 0xFFD && t.pc == 0x202) = true := by decide
theorem test_ldB_fault : nextIs (step ((start1 0xF033 0 255).setIndex 0xFFE))
    (fun t => faultIs t .memRange && t.readBytes 0xFFE 2 == [0, 0]) = true := by decide
theorem test_ldMemVx : nextIs (step ((start2 0xF255 1 0x11 2 0x22).setIndex 0xFFD))
    (fun t => t.readBytes 0xFFD 3 == [0, 0x11, 0x22] && t.i == 0xFFD) = true := by decide
theorem test_ldMemVx_fault : nextIs (step ((start1 0xFF55 0 0x42).setIndex 0xFF1))
    (fun t => faultIs t .memRange && t.readByte 0xFF1 == 0) = true := by decide
theorem test_ldVxMem : nextIs (step (((start1 0xF065 1 0x99).setIndex 0x300).writeBytes 0x300 [0x77, 0x78]))
    (fun t => t.reg 0 == 0x77 && t.reg 1 == 0x99 && t.i == 0x300) = true := by decide
theorem test_ldVxMem_all : nextIs (step (((start 0xFF65).setIndex 0xFF0).writeBytes 0xFF0 [1, 2, 3]))
    (fun t => t.reg 0 == 1 && t.reg 2 == 3 && t.reg 15 == 0 && !t.faulted) = true := by decide

/-! ## Display (V-DSP) -/

theorem test_cls : nextIs (step { start 0x00E0 with fb := (Screen.blank.flip 31 63).flip 0 3 })
    (fun t => rowOn t 31 == [] && rowOn t 0 == [] && t.pc == 0x202) = true := by decide
/-- V-DSP-5: collision, and the pixels under clear bits stay. -/
theorem test_drw_collides :
    nextIs (step { startDraw 0xD011 0xF0 with fb := (Screen.blank.flip 0 1).flip 0 5 })
      (fun t => rowOn t 0 == [0, 2, 3, 5] && t.reg 15 == 1) = true := by decide
/-- V-DSP-9, moved to columns 60 on: the origin is VF before it is cleared, and the columns wrap. -/
theorem test_drw_wraps_from_vf :
    nextIs (step ((startDraw 0xDF11 0xFF).setReg 15 60 |>.setReg 1 31))
      (fun t => rowOn t 31 == [0, 1, 2, 3, 60, 61, 62, 63] && rowOn t 0 == [] && t.reg 15 == 0) = true := by decide

/-! ## Keypad and timers (V-KEY) -/

theorem test_skp : nextIs (step { start1 0xE29E 2 5 with keys := (Vector.replicate 16 false).set 5 true })
    (fun t => t.pc == 0x204) = true := by decide
theorem test_skp_fault : nextIs (step (start1 0xE29E 2 0x10)) (fun t => faultIs t .keyRange) = true := by decide
theorem test_sknp : nextIs (step { start1 0xE2A1 2 5 with keys := (Vector.replicate 16 false).set 5 true })
    (fun t => t.pc == 0x202) = true := by decide
theorem test_sknp_released : nextIs (step (start1 0xE2A1 2 5)) (fun t => t.pc == 0x204) = true := by decide
theorem test_ldVxDt : nextIs (step { start 0xF307 with dt := 0x3C }) (fun t => t.reg 3 == 0x3C && t.dt == 0x3C) = true := by decide
theorem test_ldVxK_lowest :
    nextIs (step { start1 0xF10A 1 9 with keys := ((Vector.replicate 16 false).set 2 true).set 7 true })
      (fun t => t.reg 1 == 2 && t.pc == 0x202) = true := by decide
theorem test_ldVxK_waits : nextIs (step (start1 0xF10A 1 9)) (fun t => t.reg 1 == 9 && t.pc == 0x200) = true := by decide
theorem test_ldDtVx : nextIs (step (start1 0xF415 4 0x3C)) (fun t => t.dt == 0x3C && t.st == 0) = true := by decide
theorem test_ldStVx : nextIs (step (start1 0xF418 4 0x02)) (fun t => t.st == 2 && t.sound && t.dt == 0) = true := by decide
/-- V-KEY-13 and V-KEY-14. -/
theorem test_tick :
    nextIs (step { State.reset with dt := 0xFF, st := 1, inbox := [.tick] }) (fun t => t.dt == 0xFE && t.st == 0 && !t.sound) = true := by
  decide
/-- V-KEY-15. -/
theorem test_tick_frozen :
    nextIs (step { State.reset with faulted := true, dt := 5, inbox := [.tick] }) (fun t => t.dt == 5) = true := by decide

/-! ## Reset and load (R41, R42, R243) -/

theorem test_reset_font : State.reset.readBytes 0 5 = [0xF0, 0x90, 0x90, 0x90, 0xF0] ∧ State.reset.readByte 79 = 0x80 ∧
    State.reset.readByte 80 = 0 := by decide
theorem test_load : nextIs (step { State.reset with inbox := [.load [0x60, 0x05, 0x12, 0x02]] })
    (fun t => t.readBytes 0x200 5 == [0x60, 0x05, 0x12, 0x02, 0] && t.pc == 0x200) = true := by decide
theorem test_keySet : nextIs (step { State.reset with inbox := [.keySet 3 true, .tick] })
    (fun t => t.keys[3] && !t.keys[2] && t.inbox == [.tick]) = true := by decide

/-! ## Witnesses: encoding and the step cycle -/

theorem test_witness_DecodeEncodeRoundTrip :
    ∃ i : Instr, i.wellFormed = true ∧ ∃ nnn, i = .sys nnn := ⟨.sys 0x1E0, by decide, _, rfl⟩
theorem test_witness_DecodedWordEncodesBack : decode .strict 0xDAB2 = .ok (.drw 0xA 0xB 2) := by decide
theorem test_witness_EveryRowOfOpcodeMapDecodes :
    (0x0EF#12).toNat ≠ 0x0E0 ∧ (0x0EF#12).toNat ≠ 0x0EE := by decide
theorem test_witness_LowNibbleOfFamilies5And9 : (∃ n : Fin 16, n.val ≠ 0) ∧ ∃ n : Fin 16, n.val = 0 := by decide
theorem test_witness_UnknownWordsAreTheListed :
    UnknownWord .strict 0x5121 ∧ ¬ UnknownWord .lax 0x5121 ∧ UnknownWord .lax 0xF0FF := by
  unfold UnknownWord
  decide
theorem test_witness_StepRunsDecodedInstruction :
    (start 0x6005).faulted = false ∧ (start 0x6005).pc.toNat + 1 < 4096 ∧
    decodeBytes (start 0x6005).config.decode59
      [(start 0x6005).readByte (start 0x6005).pc.toNat, (start 0x6005).readByte ((start 0x6005).pc.toNat + 1)] =
        .ok (.ldImm 0 5, []) ∧
    (start 0x6005).inbox = [] ∧ ∃ r rest, ({ start 0x6005 with inbox := [.step 7, .tick] } : State).inbox = .step r :: rest :=
  ⟨by decide, by decide, by decide, by decide, _, _, rfl⟩
theorem test_witness_FetchIsBigEndian :
    ({ State.reset with pc := 0xFFE } : State).faulted = false ∧ ({ State.reset with pc := 0xFFE } : State).pc.toNat + 1 < 4096 := by
  decide
theorem test_witness_FetchBeyondMemoryFaults :
    ({ State.reset with pc := 0xFFF } : State).faulted = false ∧ ({ State.reset with pc := 0xFFF } : State).pc.toNat + 1 ≥ 4096 := by
  decide
theorem test_witness_UnknownOpcodeIsDiagnosedAndSkipped :
    (start 0x800F).faulted = false ∧ (start 0x800F).pc.toNat + 1 < 4096 ∧
    (0x800F#16).toNat = 256 * ((start 0x800F).readByte (start 0x800F).pc.toNat).toNat +
      ((start 0x800F).readByte ((start 0x800F).pc.toNat + 1)).toNat ∧
    UnknownWord (start 0x800F).config.decode59 (0x800F#16).toNat := by
  unfold UnknownWord
  decide
theorem test_witness_PreviousWordNeverRead : (start 0x6005).faulted = false ∧ (start 0x6005).pc.toNat + 1 < 4096 := by decide

/-! ## Witnesses: control transfer -/

theorem test_witness_ConditionalSkips :
    (start 0).reg 0 = 0 ∧ (start1 0 3 1).reg 3 ≠ 0 ∧ (start 0).reg 1 = (start 0).reg 2 ∧ (start1 0 3 1).reg 3 ≠ (start1 0 3 1).reg 2 := by
  decide
theorem test_witness_CallPushesReturnAddress :
    ({ State.reset with sp := 15 } : State).sp.val < 16 ∧ ({ State.reset with sp := 16 } : State).sp.val = 16 := by decide
theorem test_witness_ReturnPopsWithoutClearing :
    ({ State.reset with sp := 1 } : State).sp.val > 0 ∧ ({ State.reset with sp := 16 } : State).sp.val > 0 ∧
    State.reset.sp.val = 0 := by decide
theorem test_witness_CallThenReturnRoundTrips :
    ∃ (s t u : State) (nnn : Addr12), s.sp.val < 16 ∧ exec (.call nnn) s = .next t ∧ u.sp = t.sp ∧ ∀ k, u.slot k = t.slot k :=
  ⟨{ State.reset with sp := 15 }, _, _, 0x300, by decide, rfl, rfl, fun _ => rfl⟩

/-! ## Witnesses: ALU and random byte -/

theorem test_witness_AddAndSubtractWithFlag : (1 : RegIdx) ≠ 0xF ∧ (0xE : RegIdx) ≠ 0xF := by decide
theorem test_witness_ShiftsWithFlag : (0 : RegIdx) ≠ 0xF := by decide
theorem test_witness_RandomByteReadOnlyByRnd :
    ∃ (s t : State) (i : Instr), (∀ x kk, i ≠ .rnd x kk) ∧ exec i s = .next t :=
  ⟨start 0x6005, _, .ldImm 0 5, fun _ _ => Instr.noConfusion, rfl⟩

/-! ## Witnesses: memory transfers, at the last address of each clause -/

theorem test_witness_BcdDigitsStored :
    (State.reset.setIndex 0xFFD).i.toNat + 2 < 4096 ∧ (State.reset.setIndex 0xFFE).i.toNat + 2 ≥ 4096 := by decide
theorem test_witness_BlockStore :
    (State.reset.setIndex 0xFF0).i.toNat + (15 : RegIdx).val < 4096 ∧
    (State.reset.setIndex 0xFF1).i.toNat + (15 : RegIdx).val ≥ 4096 := by decide
theorem test_witness_BlockLoad :
    (State.reset.setIndex 0xFFF).i.toNat + (0 : RegIdx).val < 4096 ∧
    (State.reset.setIndex 0x1000).i.toNat + (0 : RegIdx).val ≥ 4096 ∧
    ((3 : RegIdx).val ≤ (3 : RegIdx).val) ∧ (3 : RegIdx).val < (4 : RegIdx).val := by decide
theorem test_witness_BlockRoundTrip :
    ∃ (s t u : State) (x : RegIdx), s.i.toNat + x.val < 4096 ∧ exec (.ldMemVx x) s = .next t ∧ u.i = s.i ∧
      ∀ a, u.readByte a = t.readByte a :=
  ⟨(start1 0 0 0x42).setIndex 0xFFF, ((start1 0 0 0x42).setIndex 0xFFF).writeBytes 0xFFF [0x42],
    ((start1 0 0 0x42).setIndex 0xFFF).writeBytes 0xFFF [0x42], 0, by decide, rfl, by decide, fun _ => rfl⟩
theorem test_witness_StoreIsFetchedNext :
    (State.reset.setIndex 0xFF0).faulted = false ∧ (State.reset.setIndex 0xFF0).pc.toNat + 1 < 4096 ∧
    (State.reset.setIndex 0xFF0).i.toNat + (15 : RegIdx).val < 4096 ∧ (State.reset.setIndex 0xFFD).i.toNat + 2 < 4096 := by decide
/-- A block store that writes only the high byte of the next word, and an LD B that writes only its low byte: with 0x6005 at 0x200,
V0 = 0x71 at 0x200 gives 0x7105, and the hundreds digit 2 of 255 at 0x201 gives 0x6002. -/
theorem test_store_of_one_byte_is_fetched :
    nextIs (exec (.ldMemVx 0) ((start1 0x6005 0 0x71).setIndex 0x200))
      (fun t => nextIs (perform (.step 0) t) fun u => u.port.opcode == 0x7105) = true ∧
    nextIs (exec (.ldB 1) ((start1 0x6005 1 255).setIndex 0x201))
      (fun t => nextIs (perform (.step 0) t) fun u => u.port.opcode == 0x6002) = true := by decide

/-! ## Witnesses: display -/

theorem test_witness_DrawXorsSprite :
    (State.reset.setIndex 0xFFF).i.toNat + (1 : Fin 16).val - 1 < 4096 ∧ (0 : Fin 16).val = 0 ∧
    ((2 : Fin 16).val > 0 ∧ (State.reset.setIndex 0xFFF).i.toNat + (2 : Fin 16).val - 1 ≥ 4096) ∧
    UnderSprite State.reset 0 0 1 0 0 ∧ ¬ UnderSprite State.reset 0 0 0 0 0 :=
  ⟨by decide, by decide, by decide, ⟨0, 0, by decide, by decide, by decide, by decide, by decide⟩,
    fun ⟨_, _, h, _⟩ => Nat.not_lt_zero _ h⟩
/-- The reset state after DRW V0, V1, 5. -/
def drawn : State :=
  ({ State.reset with fb := (drwCanvas 0 1 5 State.reset).fb } : State).setReg flagIdx (flagByte (drwCanvas 0 1 5 State.reset).hit)
theorem test_witness_DoubleDrawCancels :
    ∃ (s t u : State) (x y x' y' : RegIdx) (n : Fin 16), (n.val = 0 ∨ s.i.toNat + n.val - 1 < 4096) ∧ exec (.drw x y n) s = .next t ∧
      u.reg x' = s.reg x ∧ u.reg y' = s.reg y ∧ u.i = s.i ∧ (∀ a, u.readByte a = t.readByte a) ∧
      ∀ py px, u.pixel py px = t.pixel py px :=
  ⟨State.reset, drawn, drawn, 0, 1, 0, 1, 5, by decide, exec_drw_of_lt 0 1 5 State.reset (by decide), by decide, by decide, rfl,
    fun _ => rfl, fun _ _ => rfl⟩

/-! ## Witnesses: keypad and timers -/

theorem test_witness_KeySkips :
    (start1 0 2 15).reg 2 = 15#8 ∧ ((start1 0 2 15).reg 2).toNat = (15 : KeyIdx).val ∧ ((start1 0 2 16).reg 2).toNat > 0xF := by decide
theorem test_witness_WaitForKey :
    (∃ (s : State) (k : KeyIdx), s.keys[k] = true ∧ ∀ j : KeyIdx, j < k → s.keys[j] = false) ∧
    ∀ k : KeyIdx, State.reset.keys[k] = false :=
  ⟨⟨{ State.reset with keys := (Vector.replicate 16 false).set 15 true }, 15, by decide, by decide⟩, by decide⟩
theorem test_witness_TickBetweenWriteAndRead :
    ∃ (s t u : State) (x : RegIdx), s.faulted = false ∧ exec (.ldDtVx x) s = .next t ∧ perform .tick t = .next u :=
  ⟨start1 0 4 3, _, _, 4, by decide, rfl, rfl⟩
theorem test_witness_TickDecrementsNonZeroTimers :
    ({ State.reset with dt := 1 } : State).faulted = false ∧ ({ State.reset with faulted := true } : State).faulted = true := by decide

/-! ## Witnesses: whole-machine rules, faults and commands -/

theorem test_witness_RegisterWriters :
    ∃ (s t : State) (i : Instr) (r : RegIdx), exec i s = .next t ∧ t.reg r ≠ s.reg r :=
  ⟨State.reset, _, .ldImm 3 7, 3, rfl, by decide⟩
theorem test_witness_StateWriters :
    (∃ (s t : State) (i : Instr), exec i s = .next t ∧ t.i ≠ s.i) ∧
    (∃ (s t : State) (i : Instr), exec i s = .next t ∧ t.sp ≠ s.sp) ∧
    (∃ (s t : State) (i : Instr), exec i s = .next t ∧ t.dt ≠ s.dt) ∧
    (∃ (s t : State) (i : Instr), exec i s = .next t ∧ t.st ≠ s.st) ∧
    (∃ (s t : State) (i : Instr), exec i s = .next t ∧ t.pixel 3 5 ≠ s.pixel 3 5) ∧
    (∃ (s t : State) (i : Instr), exec i s = .next t ∧ t.readByte 0x300 ≠ s.readByte 0x300) :=
  ⟨⟨State.reset, _, .ldI 1, rfl, by decide⟩, ⟨State.reset, _, .call 1, rfl, by decide⟩,
    ⟨start1 0 4 3, _, .ldDtVx 4, rfl, by decide⟩, ⟨start1 0 4 3, _, .ldStVx 4, rfl, by decide⟩,
    ⟨{ State.reset with fb := Screen.blank.flip 3 5 }, _, .cls, rfl, by decide⟩,
    ⟨(start1 0 0 3).setIndex 0x300, _, .ldMemVx 0, rfl, by decide⟩⟩
theorem test_witness_FaultsArePrecise :
    ∃ (s t : State) (r : Byte), s.faulted = false ∧ perform (.step r) s = .next t ∧ t.faulted = true :=
  ⟨start 0x00EE, _, 0, by decide, rfl, by decide⟩
theorem test_witness_StepFaultsExactlyAsTabled :
    ∀ cause, cause ≠ .none → ∃ (s t : State) (r : Byte), s.faulted = false ∧
      perform (.step r) s = .next t ∧ t.faulted = true ∧ t.faultCause = cause := by
  intro cause h
  cases cause with
  | none => exact absurd rfl h
  | fetchRange => exact ⟨{ State.reset with pc := 0xFFF }, _, 0, by decide, rfl, by decide, by decide⟩
  | memRange => exact ⟨(start 0xF033).setIndex 0xFFE, _, 0, by decide, rfl, by decide, by decide⟩
  | stackOverflow => exact ⟨{ start 0x2300 with sp := 16 }, _, 0, by decide, rfl, by decide, by decide⟩
  | stackUnderflow => exact ⟨start 0x00EE, _, 0, by decide, rfl, by decide, by decide⟩
  | keyRange => exact ⟨start1 0xE29E 2 0x10, _, 0, by decide, rfl, by decide, by decide⟩
theorem test_witness_FaultedUntilReset :
    ∃ (s : State) (c : Command), s.faulted = true ∧ c ≠ .reset :=
  ⟨{ State.reset with faulted := true, faultCause := .memRange }, .tick, by decide, by decide⟩
theorem test_witness_LoadCopiesImage :
    0x200 + (List.replicate 3584 (0 : Byte)).length ≤ 4096 ∧ 0x200 + (List.replicate 3585 (0 : Byte)).length > 4096 := by
  simp only [List.length_replicate]
  decide
theorem test_witness_ResetValues :
    Config.default.fontBase.val + 80 ≤ 80 ∧ 0 < ({ Config.default with fontBase := 432 } : Config).fontBase.val := by decide
theorem test_witness_KeySetWritesOneLine : (3 : KeyIdx) ≠ 15 := by decide
theorem test_witness_FramebufferPortIsRowMajor : (2047 : Fin 2048).val = (31 : Fin 32).val * 64 + (63 : Fin 64).val := by decide
theorem test_witness_StepPerformsNextCommand :
    State.reset.inbox = [] ∧ ∃ c rest, ({ State.reset with inbox := [.tick, .reset] } : State).inbox = c :: rest :=
  ⟨rfl, _, _, rfl⟩

/-! ## Witnesses: invariants -/

theorem test_witness_StepKeepsCoherent :
    ∃ s t : State, s.Coherent ∧ step s = .next t ∧ t.Coherent ∧ t.readByte 0x200 = 0x60 :=
  ⟨{ State.reset with inbox := [.load [0x60]] }, _, ⟨by decide, by decide, by decide⟩, rfl, ⟨by decide, by decide, by decide⟩, by decide⟩
theorem test_witness_StepKeepsPcBounded :
    ∃ s t : State, s.PcBounded ∧ step s = .next t ∧ t.pc = 0x10FE :=
  ⟨start1 0xBFFF 0 0xFF, _, ⟨by decide, by decide⟩, rfl, by decide⟩
theorem test_witness_ParametersNeverChange : ∃ s t : State, step s = .next t :=
  ⟨{ State.reset with inbox := [.tick] }, _, rfl⟩
theorem test_witness_EqualReadsEqualMemories :
    Memory.wf Config.default [(0x200, 0x60), (0x201, 0x05)] ∧ ¬ Memory.wf Config.default [(0, 0xF0)] ∧
    ¬ Memory.wf Config.default [(0x200, 0)] := by decide

/-! ## Witnesses: the scheduler -/

theorem test_witness_SchedulerDrainsEveryDueStep :
    ∃ (h : HostConfig) (k k' : Scheduler) (ds : List Dispatched), 0 < h.clockHz ∧ k.advance h 20 = (k', ds) ∧
      h.clockHz ≤ (k.observe h 20).stepAcc ∧ h.clockHz ≤ (k.observe h 20).tickAcc ∧
      ds.head? = some .instructionStep ∧ stepsOf .instructionStep ds = 16 ∧ stepsOf .timerStep ds = 1 :=
  ⟨⟨1000, 800, 100, .stepFirst⟩, ⟨0, 0, 0⟩, _, _, by decide, rfl, by decide, by decide, by decide, by decide, by decide⟩
theorem test_witness_OneSecondDispatches800And60 :
    0 < (⟨1000, 800, 600, .tickFirst⟩ : HostConfig).clockHz ∧ (⟨1000, 800, 600, .tickFirst⟩ : HostConfig).cpuHz = 800 ∧
    TimesWithin 600 5 [405, 1005] ∧ [405, 1005].getLast? = some (5 + 1000) := by
  simp [TimesWithin]
theorem test_witness_SleepNeverOversleeps :
    0 < (⟨1000, 800, 600, .tickFirst⟩ : HostConfig).cpuHz ∧
    (⟨1000, 0, 0⟩ : Scheduler).stepAcc ≤ (⟨1000, 800, 600, .tickFirst⟩ : HostConfig).clockHz ∧
    (⟨1000, 0, 0⟩ : Scheduler).tickAcc ≤ (⟨1000, 800, 600, .tickFirst⟩ : HostConfig).clockHz := by decide

end Sys2Proof.Tests
end

section
/-!
PROOFS, memory (spec/20_memory.md). The word a STEP fetches stands in `port.opcode`. No execution writes it, whether the word is an
instruction that completes, one that faults, or an unknown opcode, so the latched word is the one still seen after the STEP (R52).
-/

namespace Sys2Proof.Machine

/-- An instruction keeps the latched opcode, in completing and in faulting alike (R38). -/
theorem exec_next_keeps_opcode (i : Instr) (s : State) :
    ∃ t, exec i s = .next t ∧ t.port.opcode = s.port.opcode := by
  obtain ⟨t, ht, kept⟩ | ⟨cause, -, -, hfault⟩ := exec_cases i s
  · exact ⟨t, ht, kept.opcode⟩
  · exact ⟨_, hfault, by simp⟩

/-- A STEP whose fetch is in range answers a next state in which the fetched word is latched. -/
theorem stepCore_next_latches_fetched (r : Byte) (s : State) (hf : s.faulted = false) (h : s.pc.toNat + 1 < 4096) :
    ∃ t, stepCore r s = .next t ∧
      t.port.opcode = wordOfBytes (s.readByte s.pc.toNat) (s.readByte (s.pc.toNat + 1)) := by
  obtain ⟨hbeyond, -⟩ | ⟨-, w, rfl, ⟨-, hunknown⟩ | ⟨i, -, hexec⟩⟩ := stepCore_cases r s hf
  · omega
  · exact ⟨_, hunknown, by simp⟩
  · obtain ⟨t, ht, hop⟩ := exec_next_keeps_opcode i (advance _ (beginStep r s))
    exact ⟨t, hexec.trans ht, by simpa using hop⟩

/-- Settles O8: the latched word is laid out from the bytes at PC and PC + 1, the first of them the high one. -/
theorem fetchIsBigEndian : Obligations.FetchIsBigEndian := by
  intro s r hf h
  obtain ⟨t, ht, hop⟩ := stepCore_next_latches_fetched r s hf h
  exact ⟨t, ht, by rw [hop, wordOfBytes_toNat]⟩

end Sys2Proof.Machine
end

section
/-!
PROOFS, control transfer (spec/41_control.md). A conditional skip is one `State.skipIf`; the four forms differ only in its condition.
-/

namespace Sys2Proof.Machine

/-- An instruction that is one skip completes, changes at most PC, and advances it 2 more exactly when its condition holds (R100). -/
theorem exec_skips_when {i : Instr} {s : State} {c : Bool} {p q : Prop} (hexec : exec i s = .next (s.skipIf c))
    (hskip : p → c = true) (hstay : q → c = false) :
    ∃ t, exec i s = .next t ∧ Frame { pc := true } s t ∧ (p → t.pc = s.pc + 2) ∧ (q → t.pc = s.pc) :=
  ⟨s.skipIf c, hexec, frame_skipIf s c, fun hp => by simp [hskip hp], fun hq => by simp [hstay hq]⟩

theorem exec_seImm (x : RegIdx) (kk : Byte) (s : State) : exec (.seImm x kk) s = .next (s.skipIf (s.reg x == kk)) := rfl
theorem exec_sneImm (x : RegIdx) (kk : Byte) (s : State) : exec (.sneImm x kk) s = .next (s.skipIf (s.reg x != kk)) := rfl
theorem exec_seReg (x y : RegIdx) (s : State) : exec (.seReg x y) s = .next (s.skipIf (s.reg x == s.reg y)) := rfl
theorem exec_sneReg (x y : RegIdx) (s : State) : exec (.sneReg x y) s = .next (s.skipIf (s.reg x != s.reg y)) := rfl

/-- Settles O12: each form is a skip, SE under equality and SNE under its negation; the words are those of formats XKK and XYS. -/
theorem conditionalSkips : Obligations.ConditionalSkips := by
  intro s x y kk
  refine ⟨⟨?_, ?_⟩, ⟨?_, ?_⟩, ⟨?_, ?_⟩, ⟨?_, ?_⟩⟩
  · exact encXKK_toNat 0x3#4 x kk
  · exact exec_skips_when (exec_seImm x kk s) beq_iff_eq.mpr beq_eq_false_iff_ne.mpr
  · exact encXKK_toNat 0x4#4 x kk
  · exact exec_skips_when (exec_sneImm x kk s) bne_iff_ne.mpr bne_eq_false_iff_eq.mpr
  · exact encXYN_toNat 0x5#4 x y 0x0
  · exact exec_skips_when (exec_seReg x y s) beq_iff_eq.mpr beq_eq_false_iff_ne.mpr
  · exact encXYN_toNat 0x9#4 x y 0x0
  · exact exec_skips_when (exec_sneReg x y s) bne_iff_ne.mpr bne_eq_false_iff_eq.mpr

end Sys2Proof.Machine
end

section
/-!
PROOFS, register loads and ALU (spec/42_alu.md). The instructions without a flag are one `State.setReg` of Vx each; they differ only in
the byte written, which is computed from the registers as they were before.
-/

namespace Sys2Proof.Machine

theorem exec_ldImm (x : RegIdx) (kk : Byte) (s : State) : exec (.ldImm x kk) s = .next (s.setReg x kk) := rfl
theorem exec_addImm (x : RegIdx) (kk : Byte) (s : State) : exec (.addImm x kk) s = .next (s.setReg x (s.reg x + kk)) := rfl
theorem exec_ldReg (x y : RegIdx) (s : State) : exec (.ldReg x y) s = .next (s.setReg x (s.reg y)) := rfl
theorem exec_orReg (x y : RegIdx) (s : State) : exec (.orReg x y) s = .next (s.setReg x (s.reg x ||| s.reg y)) := rfl
theorem exec_andReg (x y : RegIdx) (s : State) : exec (.andReg x y) s = .next (s.setReg x (s.reg x &&& s.reg y)) := rfl
theorem exec_xorReg (x y : RegIdx) (s : State) : exec (.xorReg x y) s = .next (s.setReg x (s.reg x ^^^ s.reg y)) := rfl

/-- An instruction that writes one register completes, changes that register alone, and what holds of the byte holds of Vx after it. -/
theorem exec_writes_reg {i : Instr} {s : State} {x : RegIdx} {u : Byte} (p : Byte → Prop)
    (hexec : exec i s = .next (s.setReg x u)) (hbyte : p u) :
    ∃ t, exec i s = .next t ∧ Frame { regs := [x] } s t ∧ p (t.reg x) :=
  ⟨s.setReg x u, hexec, frame_setReg s x u, by rwa [State.reg_setReg_self]⟩

/-- The same for a result given bit by bit, as those of R125 to R127 are. -/
theorem exec_writes_reg_bits {i : Instr} {s : State} {x : RegIdx} {u : Byte} {f : Nat → Bool}
    (hexec : exec i s = .next (s.setReg x u)) (hbits : ∀ b, u.getLsbD b = f b) :
    ∃ t, exec i s = .next t ∧ Frame { regs := [x] } s t ∧ ∀ b < 8, (t.reg x).getLsbD b = f b :=
  exec_writes_reg (fun v => ∀ b < 8, v.getLsbD b = f b) hexec fun b _ => hbits b

/-- The word of family 8, with its selector counted into the leading constant as R76 lists the rows. -/
theorem encXYN_family8_toNat (x y n : Fin 16) : (encXYN 0x8#4 x y n).toNat = 0x8000 + n.val + 256 * x.val + 16 * y.val := by
  rw [encXYN_toNat, BitVec.toNat_ofNat]
  omega

/-- Settles O18: both are one write of Vx, of `kk` and of the 8-bit sum; the words are those of format XKK. -/
theorem immediateLoadAndAdd : Obligations.ImmediateLoadAndAdd := by
  intro s x kk
  refine ⟨⟨?_, ?_⟩, ⟨?_, ?_⟩⟩
  · exact encXKK_toNat 0x6#4 x kk
  · exact exec_writes_reg (· = kk) (exec_ldImm x kk s) rfl
  · exact encXKK_toNat 0x7#4 x kk
  · exact exec_writes_reg (·.toNat = _) (exec_addImm x kk s) (BitVec.toNat_add _ _)

/-- Settles O19: each is one write of Vx, of Vy or of the bitwise result; the words are those of format XYN. -/
theorem copyAndBitwise : Obligations.CopyAndBitwise := by
  intro s x y
  refine ⟨⟨?_, ?_⟩, ⟨?_, ?_⟩, ⟨?_, ?_⟩, ⟨?_, ?_⟩⟩
  · exact encXYN_family8_toNat x y 0x0
  · exact exec_writes_reg (· = s.reg y) (exec_ldReg x y s) rfl
  · exact encXYN_family8_toNat x y 0x1
  · exact exec_writes_reg_bits (exec_orReg x y s) fun _ => BitVec.getLsbD_or
  · exact encXYN_family8_toNat x y 0x2
  · exact exec_writes_reg_bits (exec_andReg x y s) fun _ => BitVec.getLsbD_and
  · exact encXYN_family8_toNat x y 0x3
  · exact exec_writes_reg_bits (exec_xorReg x y s) fun _ => BitVec.getLsbD_xor

end Sys2Proof.Machine
end

section
/-!
PROOFS, display (spec/44_display.md). CLS writes the framebuffer and nothing else, and the one it writes has every pixel off.
-/

namespace Sys2Proof.Machine

theorem exec_cls (s : State) : exec .cls s = .next { s with fb := Screen.blank } := rfl

/-- A write of the framebuffer, whatever stands in it after, leaves the rest of the state alone. -/
theorem frame_setScreen (s : State) (fb : Screen) : Frame { screen := true } s { s with fb := fb } where
  regs _ _ := rfl
  index _ := rfl
  pc _ := rfl
  stack _ := ⟨rfl, fun _ => rfl⟩
  dt _ := rfl
  st _ := rfl
  screen h := by simp at h
  memory _ _ := rfl
  diag _ := rfl
  keys _ := rfl
  fault := ⟨rfl, rfl, rfl⟩
  input := ⟨rfl, rfl⟩
  model := ⟨rfl, rfl, rfl⟩

/-- Settles O30: CLS is one write of the framebuffer, with the blank one. -/
theorem clearScreen : Obligations.ClearScreen := by
  intro s
  exact ⟨rfl, _, exec_cls s, frame_setScreen s Screen.blank, Screen.pixel_blank⟩

end Sys2Proof.Machine
end

section
/-!
PROOFS, keypad and timers (spec/45_keypad_timers.md). LD Vx, DT is one write of Vx; LD DT, Vx and LD ST, Vx are one write of a timer.
The sound output is a function of ST, so it follows the write of ST in the same state.
-/

namespace Sys2Proof.Machine

theorem exec_ldVxDt (x : RegIdx) (s : State) : exec (.ldVxDt x) s = .next (s.setReg x s.dt) := rfl
theorem exec_ldDtVx (x : RegIdx) (s : State) : exec (.ldDtVx x) s = .next { s with dt := s.reg x } := rfl
theorem exec_ldStVx (x : RegIdx) (s : State) : exec (.ldStVx x) s = .next { s with st := s.reg x } := rfl

/-- A write of the timers leaves the rest of the state alone, and each timer that the frame does not name keeps its value. -/
theorem frame_setTimers (s : State) {dt st : Byte} {changesDt changesSt : Bool} (hdt : changesDt = false → dt = s.dt)
    (hst : changesSt = false → st = s.st) :
    Frame { dt := changesDt, st := changesSt } s { s with dt := dt, st := st } where
  regs _ _ := rfl
  index _ := rfl
  pc _ := rfl
  stack _ := ⟨rfl, fun _ => rfl⟩
  dt := hdt
  st := hst
  screen _ _ _ := rfl
  memory _ _ := rfl
  diag _ := rfl
  keys _ := rfl
  fault := ⟨rfl, rfl, rfl⟩
  input := ⟨rfl, rfl⟩
  model := ⟨rfl, rfl, rfl⟩

theorem frame_setDt (s : State) (u : Byte) : Frame { dt := true } s { s with dt := u } :=
  frame_setTimers s nofun fun _ => rfl

theorem frame_setSt (s : State) (u : Byte) : Frame { st := true } s { s with st := u } :=
  frame_setTimers s (fun _ => rfl) nofun

/-- The sound output is on exactly while ST runs (R222). -/
theorem State.sound_iff (s : State) : s.sound = true ↔ s.st.toNat ≠ 0 :=
  bne_iff_ne.trans BitVec.toNat_ne_iff_ne.symm

/-- The word of family F, with its selector counted into the leading constant as R76 lists the rows. -/
theorem encXKK_familyF_toNat (x : RegIdx) (kk : Byte) : (encXKK 0xF#4 x kk).toNat = 0xF000 + kk.toNat + 256 * x.val := by
  rw [encXKK_toNat, BitVec.toNat_ofNat]
  omega

/-- Settles O35: each is one write, of Vx, of DT or of ST; the words are those of format XS, and ST holds Vx when SOUND is read. -/
theorem timerReadsAndWrites : Obligations.TimerReadsAndWrites := by
  intro s x
  refine ⟨⟨?_, ?_⟩, ⟨?_, ?_⟩, ⟨?_, ?_⟩⟩
  · exact encXKK_familyF_toNat x 0x07#8
  · exact exec_writes_reg (· = s.dt) (exec_ldVxDt x s) rfl
  · exact encXKK_familyF_toNat x 0x15#8
  · exact ⟨_, exec_ldDtVx x s, frame_setDt s (s.reg x), rfl⟩
  · exact encXKK_familyF_toNat x 0x18#8
  · exact ⟨_, exec_ldStVx x s, frame_setSt s (s.reg x), rfl, State.sound_iff _⟩

end Sys2Proof.Machine
end

section
/-!
PROOFS, the host's commands (spec/60_exceptions.md). TICK is one write of the two timers, each counted down on its own, and is frozen
while the CORE is faulted.
-/

namespace Sys2Proof.Machine

/-- A timer counts down by 1 and stops at 0, so that it never wraps (R212). -/
@[simp] theorem countDown_toNat (u : Byte) : (countDown u).toNat = u.toNat - 1 := by
  unfold countDown
  split
  case isTrue hzero => simp [hzero]
  case isFalse hpos => bv_omega

theorem tickTimers_of_running {s : State} (hf : s.faulted = false) :
    tickTimers s = { s with dt := countDown s.dt, st := countDown s.st } := by
  simp [tickTimers, hf]

theorem tickTimers_of_faulted {s : State} (hf : s.faulted = true) : tickTimers s = s := by
  simp [tickTimers, hf]

theorem perform_tick (s : State) : perform .tick s = .next (tickTimers s) := rfl

/-- Settles O41: TICK of a running CORE is one write of both timers, each counted down; of a faulted one it answers the same state. -/
theorem tickDecrementsNonZeroTimers : Obligations.TickDecrementsNonZeroTimers := by
  intro s
  rw [perform_tick]
  constructor
  · intro hrunning
    rw [tickTimers_of_running hrunning]
    exact ⟨_, rfl, frame_setTimers s nofun nofun, countDown_toNat s.dt, countDown_toNat s.st⟩
  · intro hfaulted
    rw [tickTimers_of_faulted hfaulted]

end Sys2Proof.Machine
end

section
/-!
PROOFS, encoding (spec/30_encoding.md). A word is laid out again from its fields, so whatever the decoder reads from the fields encodes
back; and the decoder reads from a word of a format exactly the fields it was laid out from. The families with a selector (8, E, F) are
settled on their own, and the opcode map is the split on `op`.
-/

namespace Sys2Proof

/-! ## A word is what its fields lay out -/

theorem encNNN_of_op {w : Word} {op : BitVec 4} (hop : opField w = op) : encNNN op (nnnField w) = w := by
  apply BitVec.eq_of_toNat_eq
  rw [encNNN_toNat, ← hop, opField_toNat, nnnField_toNat]
  omega

theorem encXKK_of_op {w : Word} {op : BitVec 4} (hop : opField w = op) : encXKK op (xField w) (kkField w) = w := by
  apply BitVec.eq_of_toNat_eq
  rw [encXKK_toNat, ← hop, opField_toNat, xField_val, kkField_toNat]
  omega

theorem encXYN_of_op {w : Word} {op : BitVec 4} {n : Fin 16} (hop : opField w = op) (hn : nField w = n) :
    encXYN op (xField w) (yField w) n = w := by
  apply BitVec.eq_of_toNat_eq
  rw [encXYN_toNat, ← hop, ← hn, opField_toNat, xField_val, yField_val, nField_val]
  omega

/-! ## The opcode map, one equation per family (R76) -/

section Families
variable {w : Word} (m : Decode59)

theorem decode_op0 (h : opField w = 0x0#4) : decode m w = .ok (decode0 w) := by simp [decode, h]
theorem decode_op1 (h : opField w = 0x1#4) : decode m w = .ok (.jp (nnnField w)) := by simp [decode, h]
theorem decode_op2 (h : opField w = 0x2#4) : decode m w = .ok (.call (nnnField w)) := by simp [decode, h]
theorem decode_op3 (h : opField w = 0x3#4) : decode m w = .ok (.seImm (xField w) (kkField w)) := by simp [decode, h]
theorem decode_op4 (h : opField w = 0x4#4) : decode m w = .ok (.sneImm (xField w) (kkField w)) := by simp [decode, h]
theorem decode_op5 (h : opField w = 0x5#4) : decode m w =
    if takesNibble m (nField w) then .ok (.seReg (xField w) (yField w)) else .error .unknown5 := by simp [decode, h]
theorem decode_op6 (h : opField w = 0x6#4) : decode m w = .ok (.ldImm (xField w) (kkField w)) := by simp [decode, h]
theorem decode_op7 (h : opField w = 0x7#4) : decode m w = .ok (.addImm (xField w) (kkField w)) := by simp [decode, h]
theorem decode_op8 (h : opField w = 0x8#4) : decode m w = decode8 (xField w) (yField w) (nField w) := by simp [decode, h]
theorem decode_op9 (h : opField w = 0x9#4) : decode m w =
    if takesNibble m (nField w) then .ok (.sneReg (xField w) (yField w)) else .error .unknown9 := by simp [decode, h]
theorem decode_opA (h : opField w = 0xA#4) : decode m w = .ok (.ldI (nnnField w)) := by simp [decode, h]
theorem decode_opB (h : opField w = 0xB#4) : decode m w = .ok (.jpV0 (nnnField w)) := by simp [decode, h]
theorem decode_opC (h : opField w = 0xC#4) : decode m w = .ok (.rnd (xField w) (kkField w)) := by simp [decode, h]
theorem decode_opD (h : opField w = 0xD#4) : decode m w = .ok (.drw (xField w) (yField w) (nField w)) := by simp [decode, h]
theorem decode_opE (h : opField w = 0xE#4) : decode m w = decodeE (xField w) (kkField w) := by simp [decode, h]
theorem decode_opF (h : opField w = 0xF#4) : decode m w = decodeF (xField w) (kkField w) := by simp [decode, h]

end Families

/-- The 16 families. -/
theorem op_cases : ∀ op : BitVec 4, op = 0x0#4 ∨ op = 0x1#4 ∨ op = 0x2#4 ∨ op = 0x3#4 ∨ op = 0x4#4 ∨ op = 0x5#4 ∨ op = 0x6#4 ∨
    op = 0x7#4 ∨ op = 0x8#4 ∨ op = 0x9#4 ∨ op = 0xA#4 ∨ op = 0xB#4 ∨ op = 0xC#4 ∨ op = 0xD#4 ∨ op = 0xE#4 ∨ op = 0xF#4 := by
  decide

/-! ## Encode, then decode -/

/-- Family 0 is SYS but for the two words of CLS and RET (R77). -/
theorem decode0_encNNN {nnn : Addr12} (h : (Instr.sys nnn).wellFormed = true) : decode0 (encNNN 0x0#4 nnn) = .sys nnn := by
  simp only [Instr.wellFormed, Bool.and_eq_true, bne_iff_ne] at h
  obtain ⟨hcls, hret⟩ := h
  have other {a : Addr12} (hne : nnn ≠ a) : encNNN 0x0#4 nnn ≠ encNNN 0x0#4 a := fun e =>
    hne (by simpa using congrArg nnnField e)
  have hcls' : encNNN 0x0#4 nnn ≠ 0x00E0#16 := other hcls
  have hret' : encNNN 0x0#4 nnn ≠ 0x00EE#16 := other hret
  rw [decode0, if_neg hcls', if_neg hret', nnnField_encNNN]

/-- The decoder reads back the instruction a word was laid out from, whatever DECODE_5_9 is. -/
theorem decode_encode (m : Decode59) {i : Instr} (h : i.wellFormed = true) : decode m (encode i) = .ok i := by
  cases i
  case cls => simp [encode, decode, opField, decode0]
  case ret => simp [encode, decode, opField, decode0]
  case sys nnn => simp [encode, decode, decode0_encNNN h]
  case seReg x y => cases m <;> simp [encode, decode, takesNibble]
  case sneReg x y => cases m <;> simp [encode, decode, takesNibble]
  all_goals simp [encode, decode, decode8, decodeE, decodeF]

/-- Settles O1: the two bytes of a word are put together to the word again, and the word decodes to its instruction. -/
theorem decodeEncodeRoundTrip : Obligations.DecodeEncodeRoundTrip := by
  intro m i rest h
  refine ⟨decode_encode m h, ?_⟩
  simp [encodeBytes, decodeBytes, wordOfBytes_high_low, decode_encode m h, Except.map]

/-! ## Decode, then encode -/

theorem decode0_encodes {w : Word} (hop : opField w = 0x0#4) : (decode0 w).wellFormed = true ∧ encode (decode0 w) = w := by
  have hw := encNNN_of_op hop
  unfold decode0
  split_ifs with hcls hret
  · exact ⟨rfl, hcls.symm⟩
  · exact ⟨rfl, hret.symm⟩
  · refine ⟨?_, hw⟩
    simp only [Instr.wellFormed, Bool.and_eq_true, bne_iff_ne]
    constructor
    · intro e
      exact hcls (by rw [← hw, e]; rfl)
    · intro e
      exact hret (by rw [← hw, e]; rfl)

theorem decode8_encodes {x y n : Fin 16} {i : Instr} (h : decode8 x y n = .ok i) :
    i.wellFormed = true ∧ encode i = encXYN 0x8#4 x y n := by
  unfold decode8 at h
  split_ifs at h with hn hn hn hn hn hn hn hn hn
  all_goals
    cases h
    exact ⟨rfl, by rw [hn]; rfl⟩

theorem decodeE_encodes {x : RegIdx} {kk : Byte} {i : Instr} (h : decodeE x kk = .ok i) :
    i.wellFormed = true ∧ encode i = encXKK 0xE#4 x kk := by
  unfold decodeE at h
  split_ifs at h with hk hk
  all_goals
    cases h
    exact ⟨rfl, by rw [hk]; rfl⟩

theorem decodeF_encodes {x : RegIdx} {kk : Byte} {i : Instr} (h : decodeF x kk = .ok i) :
    i.wellFormed = true ∧ encode i = encXKK 0xF#4 x kk := by
  unfold decodeF at h
  split_ifs at h with hk hk hk hk hk hk hk hk hk
  all_goals
    cases h
    exact ⟨rfl, by rw [hk]; rfl⟩

/-- Under STRICT a word of family 5 or 9 that decodes has 0 as its low nibble (R78). -/
theorem of_takesNibble {n : Fin 16} {i j : Instr} {e : Reject}
    (h : (if takesNibble .strict n then .ok j else .error e : Except Reject Instr) = .ok i) : n = 0 ∧ j = i := by
  split at h
  next hn => cases h; exact ⟨beq_iff_eq.mp hn, rfl⟩
  next => cases h

/-- A word that decodes under STRICT: its family says which format lays it out, and the fields are those the format takes. -/
theorem encode_of_decode_strict {w : Word} {i : Instr} (h : decode .strict w = .ok i) :
    i.wellFormed = true ∧ encode i = w := by
  obtain h0 | h1 | h2 | h3 | h4 | h5 | h6 | h7 | h8 | h9 | hA | hB | hC | hD | hE | hF := op_cases (opField w)
  · rw [decode_op0 _ h0] at h; cases h; exact decode0_encodes h0
  · rw [decode_op1 _ h1] at h; cases h; exact ⟨rfl, encNNN_of_op h1⟩
  · rw [decode_op2 _ h2] at h; cases h; exact ⟨rfl, encNNN_of_op h2⟩
  · rw [decode_op3 _ h3] at h; cases h; exact ⟨rfl, encXKK_of_op h3⟩
  · rw [decode_op4 _ h4] at h; cases h; exact ⟨rfl, encXKK_of_op h4⟩
  · rw [decode_op5 _ h5] at h
    obtain ⟨hn, hi⟩ := of_takesNibble h
    cases hi; exact ⟨rfl, encXYN_of_op h5 hn⟩
  · rw [decode_op6 _ h6] at h; cases h; exact ⟨rfl, encXKK_of_op h6⟩
  · rw [decode_op7 _ h7] at h; cases h; exact ⟨rfl, encXKK_of_op h7⟩
  · rw [decode_op8 _ h8] at h; rw [← encXYN_of_op h8 rfl]; exact decode8_encodes h
  · rw [decode_op9 _ h9] at h
    obtain ⟨hn, hi⟩ := of_takesNibble h
    cases hi; exact ⟨rfl, encXYN_of_op h9 hn⟩
  · rw [decode_opA _ hA] at h; cases h; exact ⟨rfl, encNNN_of_op hA⟩
  · rw [decode_opB _ hB] at h; cases h; exact ⟨rfl, encNNN_of_op hB⟩
  · rw [decode_opC _ hC] at h; cases h; exact ⟨rfl, encXKK_of_op hC⟩
  · rw [decode_opD _ hD] at h; cases h; exact ⟨rfl, encXYN_of_op hD rfl⟩
  · rw [decode_opE _ hE] at h; rw [← encXKK_of_op hE]; exact decodeE_encodes h
  · rw [decode_opF _ hF] at h; rw [← encXKK_of_op hF]; exact decodeF_encodes h

/-- Settles O2: no bit of the word is dropped, since the instruction holds every field of its format. -/
theorem decodedWordEncodesBack : Obligations.DecodedWordEncodesBack :=
  fun _ _ h => encode_of_decode_strict h

/-! ## The rows of the opcode map, by the numbers of their words (R76) -/

theorem ofNat_eq_of_toNat {w : Word} {k : Nat} (hk : w.toNat = k) : BitVec.ofNat 16 k = w := by
  rw [← hk, BitVec.ofNat_toNat, BitVec.setWidth_eq]

/-- A word written from the number of an instruction's word decodes to the instruction. -/
theorem decode_ofNat (m : Decode59) {i : Instr} {k : Nat} (hwf : i.wellFormed = true) (hk : (encode i).toNat = k) :
    decode m (BitVec.ofNat 16 k) = .ok i := by
  rw [ofNat_eq_of_toNat hk]
  exact decode_encode m hwf

theorem sys_wellFormed {nnn : Addr12} (hcls : nnn.toNat ≠ 0x0E0) (hret : nnn.toNat ≠ 0x0EE) :
    (Instr.sys nnn).wellFormed = true := by
  simp only [Instr.wellFormed, Bool.and_eq_true, bne_iff_ne]
  exact ⟨fun e => hcls (e ▸ rfl), fun e => hret (e ▸ rfl)⟩

/-- The number of a word whose selector is its low nibble, the selector counted into the leading constant as R76 lists the rows. -/
theorem encXYN_selector_toNat (op : BitVec 4) (x y n : Fin 16) :
    (encXYN op x y n).toNat = (4096 * op.toNat + n.val) + 256 * x.val + 16 * y.val := by
  rw [encXYN_toNat]
  omega

/-- The number of a word whose selector is its low byte. -/
theorem encXKK_selector_toNat (op : BitVec 4) (x : RegIdx) (kk : Byte) :
    (encXKK op x kk).toNat = (4096 * op.toNat + kk.toNat) + 256 * x.val := by
  rw [encXKK_toNat]
  omega

/-- Settles O3: each row is written from the number of the word of its instruction. -/
theorem everyRowOfOpcodeMapDecodes : Obligations.EveryRowOfOpcodeMapDecodes := by
  intro m x y n kk nnn
  refine ⟨?cls, ?ret, ?sys, ?jp, ?call, ?seImm, ?sneImm, ?seReg, ?ldImm, ?addImm, ?ldReg, ?orReg, ?andReg, ?xorReg, ?addReg,
    ?subReg, ?shr, ?subn, ?shl, ?sneReg, ?ldI, ?jpV0, ?rnd, ?drw, ?skp, ?sknp, ?ldVxDt, ?ldVxK, ?ldDtVx, ?ldStVx, ?addI, ?ldF,
    ?ldB, ?ldMemVx, ?ldVxMem⟩
  case cls => exact decode_encode m (i := .cls) rfl
  case ret => exact decode_encode m (i := .ret) rfl
  case sys => exact fun hcls hret => decode_ofNat m (sys_wellFormed hcls hret) (by simp [encode, encNNN_toNat])
  case jp | call | ldI | jpV0 => exact decode_ofNat m rfl (encNNN_toNat _ nnn)
  case seImm | sneImm | ldImm | addImm | rnd => exact decode_ofNat m rfl (encXKK_toNat _ x kk)
  case drw => exact decode_ofNat m rfl (encXYN_toNat 0xD#4 x y n)
  case seReg | sneReg | ldReg | orReg | andReg | xorReg | addReg | subReg | shr | subn | shl =>
    exact decode_ofNat m rfl (encXYN_selector_toNat _ x y _)
  all_goals exact decode_ofNat m rfl (encXKK_selector_toNat _ x _)

end Sys2Proof
end

section
/-!
PROOFS, unknown words (spec/30_encoding.md R78 to R81). Each family that has a selector rejects the values that select nothing; the other
families reject nothing.
-/

namespace Sys2Proof.Machine

/-! ## The low nibble of families 5 and 9 -/

theorem decode_number5 (m : Decode59) (x y n : Fin 16) :
    decode m (BitVec.ofNat 16 (0x5000 + 256 * x.val + 16 * y.val + n.val)) =
      if takesNibble m n then .ok (.seReg x y) else .error .unknown5 := by
  have hw : BitVec.ofNat 16 (0x5000 + 256 * x.val + 16 * y.val + n.val) = encXYN 0x5#4 x y n :=
    ofNat_eq_of_toNat (encXYN_toNat ..)
  rw [hw, decode_op5 m (opField_encXYN ..), xField_encXYN, yField_encXYN, nField_encXYN]

theorem decode_number9 (m : Decode59) (x y n : Fin 16) :
    decode m (BitVec.ofNat 16 (0x9000 + 256 * x.val + 16 * y.val + n.val)) =
      if takesNibble m n then .ok (.sneReg x y) else .error .unknown9 := by
  have hw : BitVec.ofNat 16 (0x9000 + 256 * x.val + 16 * y.val + n.val) = encXYN 0x9#4 x y n :=
    ofNat_eq_of_toNat (encXYN_toNat ..)
  rw [hw, decode_op9 m (opField_encXYN ..), xField_encXYN, yField_encXYN, nField_encXYN]

theorem takesNibble_strict_iff (n : Fin 16) : takesNibble .strict n = true ↔ n.val = 0 :=
  beq_iff_eq.trans Fin.ext_iff

/-- Settles O5: LAX takes every low nibble, STRICT takes 0 alone. -/
theorem lowNibbleOfFamilies5And9 : Obligations.LowNibbleOfFamilies5And9 := by
  intro x y n
  simp only [decode_number5, decode_number9, takesNibble_strict_iff]
  refine ⟨rfl, rfl, fun hn => ?_, fun hn => ?_, rfl⟩
  · rw [if_neg hn, if_neg hn]
    exact ⟨rfl, rfl⟩
  · rw [if_pos hn, if_pos hn]
    exact ⟨rfl, rfl⟩

/-! ## Which selectors select nothing -/

theorem decode8_rejects_iff (x y n : Fin 16) :
    (∀ i, decode8 x y n ≠ .ok i) ↔ n.val ∈ [0x8, 0x9, 0xA, 0xB, 0xC, 0xD, 0xF] := by
  fin_cases n <;> simp [decode8]

theorem decodeE_rejects_iff (x : RegIdx) (kk : Byte) : (∀ i, decodeE x kk ≠ .ok i) ↔ kk.toNat ∉ [0x9E, 0xA1] := by
  unfold decodeE
  split_ifs with h h'
  · simp [h]
  · simp [h']
  · rw [BitVec.toNat_eq] at h h'
    simpa using ⟨h, h'⟩

theorem decodeF_rejects_iff (x : RegIdx) (kk : Byte) :
    (∀ i, decodeF x kk ≠ .ok i) ↔ kk.toNat ∉ [0x07, 0x0A, 0x15, 0x18, 0x1E, 0x29, 0x33, 0x55, 0x65] := by
  unfold decodeF
  split_ifs
  case neg => simp_all [BitVec.toNat_eq]
  all_goals simp_all

theorem takesNibble_rejects_iff (m : Decode59) (n : Fin 16) (j : Instr) (e : Reject) :
    (∀ i, (if takesNibble m n then .ok j else .error e : Except Reject Instr) ≠ .ok i) ↔ m = .strict ∧ n.val ≠ 0 := by
  cases m
  case strict =>
    simp only [takesNibble_strict_iff, true_and]
    split_ifs with hn <;> simp [hn]
  case lax => simp [takesNibble]

/-- Settles O6: the split on `op`; a family rejects exactly where its disjunct of the list holds, and every other disjunct is of another
family. -/
theorem unknownWordsAreTheListed : Obligations.UnknownWordsAreTheListed := by
  intro m w
  unfold UnknownWord
  rw [← opField_toNat, ← nField_val, ← kkField_toNat]
  obtain h0 | h1 | h2 | h3 | h4 | h5 | h6 | h7 | h8 | h9 | hA | hB | hC | hD | hE | hF := op_cases (opField w)
  · simp [decode_op0 m h0, h0]
  · simp [decode_op1 m h1, h1]
  · simp [decode_op2 m h2, h2]
  · simp [decode_op3 m h3, h3]
  · simp [decode_op4 m h4, h4]
  · rw [decode_op5 m h5, takesNibble_rejects_iff]; simp [h5]
  · simp [decode_op6 m h6, h6]
  · simp [decode_op7 m h7, h7]
  · rw [decode_op8 m h8, decode8_rejects_iff]; simp [h8]
  · rw [decode_op9 m h9, takesNibble_rejects_iff]; simp [h9]
  · simp [decode_opA m hA, hA]
  · simp [decode_opB m hB, hB]
  · simp [decode_opC m hC, hC]
  · simp [decode_opD m hD, hD]
  · rw [decode_opE m hE, decodeE_rejects_iff]; simp [hE]
  · rw [decode_opF m hF, decodeF_rejects_iff]; simp [hF]

/-- Settles O4: the decoder is evaluated at each of the words. -/
theorem sampleWordsDecode : Obligations.SampleWordsDecode := by
  unfold Obligations.SampleWordsDecode
  decide

end Sys2Proof.Machine
end

section
/-!
PROOFS, jumps, calls and returns (spec/41_control.md). A jump is one `State.jump`; CALL and RET write PC and the stack, and fault where
no slot is free or in use.
-/

namespace Sys2Proof.Machine

theorem exec_sys (nnn : Addr12) (s : State) : exec (.sys nnn) s = .next (signalUnknown (encNNN 0x0#4 nnn) s) := rfl
theorem exec_jp (nnn : Addr12) (s : State) : exec (.jp nnn) s = .next (s.jump (zextAddr nnn)) := rfl
theorem exec_jpV0 (nnn : Addr12) (s : State) :
    exec (.jpV0 nnn) s = .next (s.jump (zextAddr nnn + (s.reg 0).setWidth 16)) := rfl

/-- The condition of the fault table, where it holds, gives the fault state of R201. -/
theorem exec_faults {s : State} {cause : FaultCause} {i : Instr} (h : InstrFaults s cause i) :
    ∃ t, exec i s = .next t ∧ FaultedAs cause (s.pc - 2) s t :=
  ⟨_, exec_of_instrFaults h, rfl⟩

/-- A write of PC and the stack leaves the rest of the state alone. -/
theorem frame_setStack (s : State) (pc : Word) (sp : Fin 17) (stack : Vector Word 16) :
    Frame { pc := true, stack := true } s { s with pc := pc, sp := sp, stack := stack } where
  regs _ _ := rfl
  index _ := rfl
  pc := nofun
  stack := nofun
  dt _ := rfl
  st _ := rfl
  screen _ _ _ := rfl
  memory _ _ := rfl
  diag _ := rfl
  keys _ := rfl
  fault := ⟨rfl, rfl, rfl⟩
  input := ⟨rfl, rfl⟩
  model := ⟨rfl, rfl, rfl⟩

@[simp] theorem zextAddr_toNat (nnn : Addr12) : (zextAddr nnn).toNat = nnn.toNat := by
  have := nnn.isLt
  rw [zextAddr, BitVec.toNat_setWidth, Nat.mod_eq_of_lt (by omega)]

@[simp] theorem setWidth_byte_toNat (u : Byte) : (u.setWidth 16).toNat = u.toNat := by
  have := u.isLt
  rw [BitVec.toNat_setWidth, Nat.mod_eq_of_lt (by omega)]

/-- `nnn + V0` is at most 0x10FE and does not wrap (R109). -/
theorem zextAddr_add_toNat (nnn : Addr12) (u : Byte) : (zextAddr nnn + u.setWidth 16).toNat = nnn.toNat + u.toNat := by
  have := nnn.isLt
  have := u.isLt
  rw [BitVec.toNat_add, zextAddr_toNat, setWidth_byte_toNat, Nat.mod_eq_of_lt (by omega)]

/-- Settles O13: both are one write of PC. -/
theorem jumpTargets : Obligations.JumpTargets := by
  intro s nnn
  refine ⟨⟨?_, ?_⟩, ⟨?_, ?_⟩⟩
  · exact encNNN_toNat 0x1#4 nnn
  · exact ⟨_, exec_jp nnn s, frame_jump s _, zextAddr_toNat nnn⟩
  · exact encNNN_toNat 0xB#4 nnn
  · exact ⟨_, exec_jpV0 nnn s, frame_jump s _, zextAddr_add_toNat nnn (s.reg 0)⟩

/-! ## CALL and RET -/

/-- What CALL leaves in the stack: the pushed address at the old pointer, every other slot as it was. -/
theorem State.slot_set (s : State) (k : Fin 16) (w : Word) (n : Nat) (hn : n < 16) :
    (s.stack.set n w hn)[k] = if k.val = n then w else s.slot k := by
  simp only [State.slot, Fin.getElem_fin, Vector.getElem_set, eq_comm]

/-- RET with the slot `k` on top goes to what it holds. -/
theorem exec_ret_of_top (s : State) (k : Fin 16) (hk : s.sp.val = k.val + 1) :
    exec .ret s = .next { s with sp := k.castSucc, pc := s.slot k } := by
  rw [exec_ret_of_pos s (by omega)]
  simp only [hk, Nat.add_sub_cancel]
  rfl

/-- A stack with a slot in use has a top slot. -/
theorem State.top_of_used {s : State} (h : s.sp.val ≠ 0) : ∃ k : Fin 16, s.sp.val = k.val + 1 :=
  ⟨⟨s.sp.val - 1, by omega⟩, (Nat.succ_pred_eq_of_ne_zero h).symm⟩

theorem State.free_of_not_full {s : State} (h : s.sp.val ≠ 16) : s.sp.val < 16 := by omega

/-- Settles O14: with a free slot CALL is a push of PC and a jump, else its condition of the fault table holds. -/
theorem callPushesReturnAddress : Obligations.CallPushesReturnAddress := by
  intro s nnn
  refine ⟨encNNN_toNat 0x2#4 nnn, fun hfree => ?_, fun hfull => exec_faults hfull⟩
  refine ⟨_, exec_call_of_lt nnn s hfree, frame_setStack s _ _ _, rfl, zextAddr_toNat nnn, fun k => ⟨fun hk => ?_, fun hk => ?_⟩⟩
  · exact (State.slot_set s k s.pc _ hfree).trans (if_pos hk)
  · exact (State.slot_set s k s.pc _ hfree).trans (if_neg hk)

/-- Settles O15: with a slot in use RET moves SP and PC only, else its condition of the fault table holds. -/
theorem returnPopsWithoutClearing : Obligations.ReturnPopsWithoutClearing := by
  intro s
  refine ⟨rfl, fun hused => ?_, fun hempty => exec_faults hempty⟩
  obtain ⟨top, htop⟩ := State.top_of_used hused.ne'
  refine ⟨_, exec_ret_of_top s top htop, frame_setStack s _ _ _, by simp [htop], fun k hk => ?_, fun k => rfl⟩
  obtain rfl : k = top := Fin.ext (by omega)
  rfl

/-- Settles O16: the slot on top after the CALL is the one it pushed PC to. -/
theorem callThenReturnRoundTrips : Obligations.CallThenReturnRoundTrips := by
  intro s t u nnn hfree hcall hsp hslot
  rw [exec_call_of_lt nnn s hfree] at hcall
  cases hcall
  refine ⟨_, exec_ret_of_top u ⟨s.sp.val, hfree⟩ (congrArg Fin.val hsp), ?_, rfl⟩
  exact (hslot _).trans ((State.slot_set s _ s.pc _ hfree).trans (if_pos rfl))

/-- Settles O17: SYS signals its word and writes nothing else. -/
theorem sysOnlySignals : Obligations.SysOnlySignals := by
  intro s nnn
  have hword : (encNNN 0x0#4 nnn).toNat = nnn.toNat := by simp [encNNN_toNat]
  exact ⟨hword, _, exec_sys nnn s, frame_signalUnknown _ s, _, rfl, rfl, hword⟩

end Sys2Proof.Machine
end

section
/-!
PROOFS, flag-writing ALU instructions and RND (spec/42_alu.md). The first are one `State.writeAlu` each, which writes the flag last, so
that VF is the flag where x is 0xF too.
-/

namespace Sys2Proof.Machine

theorem exec_addReg (x y : RegIdx) (s : State) :
    exec (.addReg x y) s = .next (s.writeAlu x (aluAdd (s.reg x) (s.reg y))) := rfl
theorem exec_subReg (x y : RegIdx) (s : State) :
    exec (.subReg x y) s = .next (s.writeAlu x (aluSub (s.reg x) (s.reg y))) := rfl
theorem exec_shr (x y : RegIdx) (s : State) : exec (.shr x y) s = .next (s.writeAlu x (aluShr (s.reg x))) := rfl
theorem exec_subn (x y : RegIdx) (s : State) :
    exec (.subn x y) s = .next (s.writeAlu x (aluSub (s.reg y) (s.reg x))) := rfl
theorem exec_shl (x y : RegIdx) (s : State) : exec (.shl x y) s = .next (s.writeAlu x (aluShl (s.reg x))) := rfl
theorem exec_rnd (x : RegIdx) (kk : Byte) (s : State) : exec (.rnd x kk) s = .next (s.setReg x (s.port.rand &&& kk)) := rfl

/-- An instruction that writes a result and a flag completes and changes those registers alone; what holds of the flag byte holds of VF
after it, and what holds of the result holds of Vx where Vx is not VF (R121). -/
theorem exec_writes_alu {i : Instr} {s : State} {x : RegIdx} {o : AluOut} (p q : Byte → Prop)
    (hexec : exec i s = .next (s.writeAlu x o)) (hflag : p (flagByte o.flag)) (hresult : q o.result) :
    ∃ t, exec i s = .next t ∧ Frame { regs := [x, 0xF] } s t ∧ p (t.reg 0xF) ∧ (x ≠ 0xF → q (t.reg x)) := by
  refine ⟨_, hexec, frame_writeAlu s x o, ?_, fun hx => ?_⟩
  · rwa [State.reg_writeAlu_flag]
  · rwa [State.reg_writeAlu_dest s o hx]

theorem flagByte_decide (p : Prop) [Decidable p] : flagByte (decide p) = if p then 1 else 0 := by
  simp [flagByte]

theorem flagByte_getLsbD (a : Byte) (b : Nat) : (flagByte (a.getLsbD b)).toNat = a.toNat / 2 ^ b % 2 :=
  (flagByte_toNat _).trans (Nat.toNat_testBit a.toNat b)

theorem aluShr_flag_toNat (a : Byte) : (flagByte (aluShr a).flag).toNat = a.toNat % 2 :=
  (flagByte_getLsbD a 0).trans (by rw [pow_zero, Nat.div_one])

theorem aluShl_flag_toNat (a : Byte) : (flagByte (aluShl a).flag).toNat = a.toNat / 128 :=
  (flagByte_getLsbD a 7).trans (by have := a.isLt; omega)

/-- Settles O20: VF is the comparison of the operands as numbers, Vx the sum or difference modulo 256. -/
theorem addAndSubtractWithFlag : Obligations.AddAndSubtractWithFlag := by
  intro s x y
  refine ⟨⟨?_, ?_⟩, ⟨?_, ?_⟩, ⟨?_, ?_⟩⟩
  · exact encXYN_family8_toNat x y 0x4
  · exact exec_writes_alu (· = _) (·.toNat = _) (exec_addReg x y s) (flagByte_decide _) (aluAdd_toNat _ _)
  · exact encXYN_family8_toNat x y 0x5
  · exact exec_writes_alu (· = _) (fun u => (u.toNat : Int) = _) (exec_subReg x y s) (flagByte_decide _) (aluSub_toNat _ _)
  · exact encXYN_family8_toNat x y 0x7
  · exact exec_writes_alu (· = _) (fun u => (u.toNat : Int) = _) (exec_subn x y s) (flagByte_decide _) (aluSub_toNat _ _)

/-- Settles O21: VF is the lowest or the highest bit of Vx; no shift reads `y`. -/
theorem shiftsWithFlag : Obligations.ShiftsWithFlag := by
  intro s x y
  refine ⟨⟨?_, ?_⟩, ⟨?_, ?_⟩, fun y' => ⟨?_, ?_⟩⟩
  · exact encXYN_family8_toNat x y 0x6
  · exact exec_writes_alu (·.toNat = _) (·.toNat = _) (exec_shr x y s) (aluShr_flag_toNat _) (aluShr_toNat _)
  · exact encXYN_family8_toNat x y 0xE
  · exact exec_writes_alu (·.toNat = _) (·.toNat = _) (exec_shl x y s) (aluShl_flag_toNat _) (aluShl_toNat _)
  · rw [exec_shr x y s, exec_shr x y' s]
  · rw [exec_shl x y s, exec_shl x y' s]

/-- Settles O22: RND writes Vx with the byte of the STEP under the mask. -/
theorem randomByteMasked : Obligations.RandomByteMasked := by
  intro s x kk
  exact ⟨encXKK_toNat 0xC#4 x kk, exec_writes_reg_bits (exec_rnd x kk s) fun _ => BitVec.getLsbD_and⟩

end Sys2Proof.Machine
end

section
/-!
PROOFS, index register and memory transfers (spec/43_index_memory.md). Three instructions are one write of I; the transfers are one store
or one load of the bytes from I up, and fault where one of the bytes is beyond the memory.
-/

namespace Sys2Proof.Machine

theorem exec_ldI (nnn : Addr12) (s : State) : exec (.ldI nnn) s = .next (s.setIndex (zextAddr nnn)) := rfl
theorem exec_addI (x : RegIdx) (s : State) : exec (.addI x) s = .next (s.setIndex (s.i + (s.reg x).setWidth 16)) := rfl
theorem exec_ldF (x : RegIdx) (s : State) : exec (.ldF x) s = .next (s.setIndex (glyphAddr s.config (s.reg x))) := rfl

/-- An instruction that writes I completes and changes nothing else; I is the number of what it writes. -/
theorem exec_writes_index {i : Instr} {s : State} {w : Word} {k : Nat} (hexec : exec i s = .next (s.setIndex w))
    (hw : w.toNat = k) : ∃ t, exec i s = .next t ∧ Frame { index := true } s t ∧ t.i.toNat = k :=
  ⟨_, hexec, frame_setIndex s w, hw⟩

/-- Settles O24: each is one write of I, with a 16-bit word. -/
theorem indexWrites : Obligations.IndexWrites := by
  intro s x nnn
  refine ⟨⟨?_, ?_⟩, ⟨?_, ?_⟩, ⟨?_, ?_⟩⟩
  · exact encNNN_toNat 0xA#4 nnn
  · exact exec_writes_index (exec_ldI nnn s) (zextAddr_toNat nnn)
  · exact encXKK_familyF_toNat x 0x1E#8
  · exact exec_writes_index (exec_addI x s) (by rw [BitVec.toNat_add, setWidth_byte_toNat])
  · exact encXKK_familyF_toNat x 0x29#8
  · exact exec_writes_index (exec_ldF x s) (BitVec.toNat_ofNat _ _)

/-! ## Stores and loads -/

/-- The address `j` places into a store reads as the byte `j` of the list, where the list has one. -/
theorem readAfterStore_add (s : State) (a j : Nat) (l : List Nat) :
    readAfterStore s a l (a + j) = l.getD j (s.readByte (a + j)).toNat := by
  simp [readAfterStore]

/-- The digit `j` of LD B, as it is read back. -/
theorem bcdDigits_stored (s : State) (u : Byte) {a : Nat} (ha : a + 2 < 4096) (j : Nat) :
    ((s.writeBytes a (bcdDigits u)).readByte (a + j)).toNat =
      [u.toNat / 100, u.toNat / 10 % 10, u.toNat % 10].getD j (s.readByte (a + j)).toNat := by
  rw [State.readByte_writeBytes s a (bcdDigits u) (a + j) (show a + 3 ≤ 4096 by omega), bcdDigits_toNat, readAfterStore_add]

/-- Settles O25: LD B is a store of the three digits, or its condition of the fault table holds. -/
theorem bcdDigitsStored : Obligations.BcdDigitsStored := by
  intro s x
  refine ⟨encXKK_familyF_toNat x 0x33#8, fun hin => ?_, fun hout => exec_faults hout⟩
  have digit := bcdDigits_stored s (s.reg x) hin
  exact ⟨_, exec_ldB_of_lt x s hin, frame_writeBytes s _ _ 3 rfl, digit 0, digit 1, digit 2⟩

/-- A stored register, as it is read back. -/
theorem regsUpTo_stored (s : State) {x j : RegIdx} (hin : s.i.toNat + x.val < 4096) (hj : j.val ≤ x.val) :
    (s.writeBytes s.i.toNat (s.regsUpTo x)).readByte (s.i.toNat + j.val) = s.reg j := by
  have hlen := State.regsUpTo_length s x
  rw [State.readByte_writeBytes_inside s _ _ j.val (by omega) (show _ ≤ 4096 by omega), State.regsUpTo_getElem]

/-- Settles O26: LD [I], Vx is a store of V0 to Vx, or its condition of the fault table holds. -/
theorem blockStore : Obligations.BlockStore := by
  intro s x
  refine ⟨encXKK_familyF_toNat x 0x55#8, fun hin => ?_, fun hout => exec_faults hout⟩
  exact ⟨_, exec_ldMemVx_of_lt x s hin, frame_writeBytes s _ _ _ (State.regsUpTo_length s x), fun j hj => regsUpTo_stored s hin hj⟩

/-- Settles O27: LD Vx, [I] is a load of V0 to Vx, or its condition of the fault table holds. -/
theorem blockLoad : Obligations.BlockLoad := by
  intro s x
  refine ⟨encXKK_familyF_toNat x 0x65#8, fun hin => ?_, fun hout => exec_faults hout⟩
  refine ⟨_, exec_ldVxMem_of_lt x s hin, frame_loadRegs s x _, fun j => ⟨fun hj => ?_, fun hj => ?_⟩⟩
  · rw [State.reg_loadRegs, if_pos hj]
  · rw [State.reg_loadRegs, if_neg (by omega)]

/-- Settles O28: the load reads at each address the register that the store left there. -/
theorem blockRoundTrip : Obligations.BlockRoundTrip := by
  intro s t u x hin hstore hi hmem
  rw [exec_ldMemVx_of_lt x s hin] at hstore
  cases hstore
  refine ⟨_, exec_ldVxMem_of_lt x u (by rwa [hi]), fun j hj => ?_⟩
  rw [State.reg_loadRegs, if_pos hj, hi, hmem, regsUpTo_stored s hin hj]

/-- The word the next STEP fetches after a store of bytes in memory (R64). -/
theorem fetch_after_writeBytes {s : State} {a : Nat} {l : List Byte} (r : Byte) (hf : s.faulted = false)
    (hpc : s.pc.toNat + 1 < 4096) (hin : a + l.length ≤ 4096) :
    ∃ u, perform (.step r) (s.writeBytes a l) = .next u ∧ u.port.opcode.toNat =
      256 * readAfterStore s a (l.map BitVec.toNat) s.pc.toNat + readAfterStore s a (l.map BitVec.toNat) (s.pc.toNat + 1) := by
  obtain ⟨u, hu, hop⟩ := fetchIsBigEndian (s.writeBytes a l) r (by simpa using hf) (by simpa using hpc)
  refine ⟨u, hu, ?_⟩
  rw [hop, State.writeBytes_pc, State.readByte_writeBytes s a l _ hin, State.readByte_writeBytes s a l _ hin]

/-- Settles O29: both instructions are a store of bytes, and the fetch reads the memory that the store left. -/
theorem storeIsFetchedNext : Obligations.StoreIsFetchedNext := by
  intro s x r hf hpc
  constructor
  · intro hin
    have hlen := State.regsUpTo_length s x
    obtain ⟨u, hu, hop⟩ := fetch_after_writeBytes (l := s.regsUpTo x) r hf hpc (show s.i.toNat + _ ≤ 4096 by omega)
    exact ⟨_, u, exec_ldMemVx_of_lt x s hin, hu, by rwa [State.regsUpTo_toNat] at hop⟩
  · intro hin
    obtain ⟨u, hu, hop⟩ := fetch_after_writeBytes (l := bcdDigits (s.reg x)) r hf hpc (show s.i.toNat + 3 ≤ 4096 by omega)
    exact ⟨_, u, exec_ldB_of_lt x s hin, hu, by rwa [bcdDigits_toNat] at hop⟩

end Sys2Proof.Machine
end

section
/-!
PROOFS, drawing (spec/44_display.md). What DRW draws is `drwCanvas`, the framebuffer with the pixels under the sprite inverted; the frame
of DRW is that of a write of the framebuffer and a write of VF.
-/

namespace Sys2Proof.Machine

theorem rows_in_memory {n : Fin 16} {a : Nat} (h : ¬ (n.val > 0 ∧ a + n.val - 1 ≥ 4096)) : n.val = 0 ∨ a + n.val - 1 < 4096 := by
  omega

/-- The state DRW leaves, its rows in memory. -/
def drwResult (x y : RegIdx) (n : Fin 16) (s : State) : State :=
  ({ s with fb := (drwCanvas x y n s).fb } : State).setReg flagIdx (flagByte (drwCanvas x y n s).hit)

theorem frame_drwResult (x y : RegIdx) (n : Fin 16) (s : State) :
    Frame { regs := [0xF], screen := true } s (drwResult x y n s) :=
  { frame_setReg { s with fb := (drwCanvas x y n s).fb } flagIdx (flagByte (drwCanvas x y n s).hit) with screen := nofun }

theorem drwResult_pixel_under {x y : RegIdx} {n : Fin 16} {s : State} {py : Fin 32} {px : Fin 64}
    (h : UnderSprite s (s.reg x) (s.reg y) n.val py px) : (drwResult x y n s).pixel py px = !s.pixel py px :=
  (drwCanvas_drawn x y n s).inside py px h

theorem drwResult_pixel_other {x y : RegIdx} {n : Fin 16} {s : State} {py : Fin 32} {px : Fin 64}
    (h : ¬ UnderSprite s (s.reg x) (s.reg y) n.val py px) : (drwResult x y n s).pixel py px = s.pixel py px :=
  (drwCanvas_drawn x y n s).outside py px h

/-- The collision (R173): a pixel under the sprite was on. -/
theorem drwCanvas_hit_iff (x y : RegIdx) (n : Fin 16) (s : State) : (drwCanvas x y n s).hit = true ↔
    ∃ py px, UnderSprite s (s.reg x) (s.reg y) n.val py px ∧ s.pixel py px = true :=
  (drwCanvas_drawn x y n s).hit.trans (or_iff_right Bool.false_ne_true)

theorem drwResult_flag (x y : RegIdx) (n : Fin 16) (s : State) :
    (drwResult x y n s).reg 0xF = flagByte (drwCanvas x y n s).hit :=
  State.reg_setReg_self _ flagIdx _

theorem flagByte_eq_one_iff (f : Bool) : flagByte f = 1 ↔ f = true := by
  cases f <;> decide

theorem drwResult_flag_eq_one_iff (x y : RegIdx) (n : Fin 16) (s : State) : (drwResult x y n s).reg 0xF = 1 ↔
    ∃ py px, UnderSprite s (s.reg x) (s.reg y) n.val py px ∧ s.pixel py px = true := by
  rw [drwResult_flag, flagByte_eq_one_iff, drwCanvas_hit_iff]

/-- Settles O31: the pixels and the flag of `drwResult`, or the condition of the fault table. -/
theorem drawXorsSprite : Obligations.DrawXorsSprite := by
  intro s x y n
  refine ⟨encXYN_toNat 0xD#4 x y n, fun hin => ?_, fun hn hout => exec_faults ⟨hn, hout⟩⟩
  refine ⟨drwResult x y n s, exec_drw_of_lt x y n s hin, frame_drwResult x y n s, fun _ _ => drwResult_pixel_under,
    fun _ _ => drwResult_pixel_other, (drwResult_flag_eq_one_iff x y n s).mpr, fun hoff => ?_⟩
  have hhit : (drwCanvas x y n s).hit = false := by
    rw [← Bool.not_eq_true, drwCanvas_hit_iff]
    rintro ⟨py, px, hunder, hon⟩
    exact Bool.false_ne_true ((hoff py px hunder).symm.trans hon)
  rw [drwResult_flag, hhit]
  rfl

/-- The pixels under a sprite depend on I and the memory alone. -/
theorem UnderSprite.congr {s u : State} (hi : u.i = s.i) (hmem : ∀ a, u.readByte a = s.readByte a) (vx vy : Byte) (n : Nat)
    (py : Fin 32) (px : Fin 64) : UnderSprite u vx vy n py px ↔ UnderSprite s vx vy n py px := by
  simp only [UnderSprite, hi, hmem]

/-- Settles O32: both draws invert the same pixels, so the second sees each of them as the first left it. -/
theorem doubleDrawCancels : Obligations.DoubleDrawCancels := by
  intro s t u x y x' y' n hin hdraw hx hy hi hmem hpix
  rw [exec_drw_of_lt x y n s hin] at hdraw
  cases hdraw
  have hunder (py px) : UnderSprite u (u.reg x') (u.reg y') n.val py px ↔ UnderSprite s (s.reg x) (s.reg y) n.val py px := by
    rw [hx, hy]
    exact UnderSprite.congr hi hmem ..
  have hflip {py px} (h : UnderSprite s (s.reg x) (s.reg y) n.val py px) : u.pixel py px = !s.pixel py px :=
    (hpix py px).trans (drwResult_pixel_under h)
  refine ⟨drwResult x' y' n u, exec_drw_of_lt x' y' n u (by rwa [hi]), fun py px => ?_, ?_⟩
  · by_cases h : UnderSprite s (s.reg x) (s.reg y) n.val py px
    · rw [drwResult_pixel_under ((hunder py px).mpr h), hflip h, Bool.not_not]
    · rw [drwResult_pixel_other (mt (hunder py px).mp h), hpix py px]
      exact drwResult_pixel_other h
  · rw [drwResult_flag_eq_one_iff]
    simp only [hunder]
    refine exists_congr fun py => exists_congr fun px => and_congr_right fun h => ?_
    rw [hflip h, Bool.not_eq_true']

end Sys2Proof.Machine
end

section
/-!
PROOFS, keypad instructions (spec/45_keypad_timers.md). The key skips are one `State.skipIf` where the register names a line; the key wait
writes Vx where a line is pressed and goes back to its own address where none is.
-/

namespace Sys2Proof.Machine

/-- A byte up to 0xF is the index of a line. -/
theorem keyIdx_of_in_range {u : Byte} (h : ¬ u.toNat > 0xF) : ∃ k : KeyIdx, u.toNat = k.val :=
  ⟨⟨u.toNat, by omega⟩, rfl⟩

/-- Settles O33: with a key index each is a skip, else its condition of the fault table holds. -/
theorem keySkips : Obligations.KeySkips := by
  intro s x
  refine ⟨encXKK_selector_toNat 0xE#4 x 0x9E#8, encXKK_selector_toNat 0xE#4 x 0xA1#8, fun k hk => ⟨?_, ?_⟩, fun hout => ⟨?_, ?_⟩⟩
  · exact exec_skips_when (exec_skp_of_key x s k hk) id id
  · exact exec_skips_when (exec_sknp_of_key x s k hk) (fun h => by simp [h]) (fun h => by simp [h])
  · exact exec_faults (i := .skp x) hout
  · exact exec_faults (i := .sknp x) hout

theorem exec_ldVxK_pressed (x : RegIdx) {s : State} {k : KeyIdx} (h : s.firstPressed = some k) :
    exec (.ldVxK x) s = .next (s.setReg x (BitVec.ofNat 8 k.val)) := by
  simp only [exec, execLdVxK, h]

theorem exec_ldVxK_waits (x : RegIdx) {s : State} (h : s.firstPressed = none) :
    exec (.ldVxK x) s = .next (s.jump (s.pc - 2)) := by
  simp only [exec, execLdVxK, h, State.instrAddr]

/-- Settles O34: the scan finds the least pressed line, or none. -/
theorem waitForKey : Obligations.WaitForKey := by
  intro s x
  refine ⟨encXKK_familyF_toNat x 0x0A#8, fun k hk hleast => ?_, fun hnone => ?_⟩
  · have hscan := exec_ldVxK_pressed x (State.firstPressed_some s k hk hleast)
    refine exec_writes_reg (·.toNat = k.val) hscan ?_
    rw [BitVec.toNat_ofNat, Nat.mod_eq_of_lt (by omega)]
  · exact ⟨_, exec_ldVxK_waits x (State.firstPressed_none s hnone), frame_jump s _, rfl⟩

end Sys2Proof.Machine
end

section
/-!
PROOFS, whole-machine rules over the instructions (spec/10_state.md, spec/60_exceptions.md R211). Each instruction has one frame,
`writesOf`; that a completed instruction stays in it is said once, and the writers of each part of the state are read off it.
-/

namespace Sys2Proof.Machine

/-- The parts of the state an instruction writes when it completes (R23, R27, R30, R32, R36, R51); the addresses are those of a store
from the state `s`. -/
def writesOf (s : State) : Instr → Changes
  | .cls => { screen := true }
  | .ret => { pc := true, stack := true }
  | .sys _ => { diag := true }
  | .jp _ => { pc := true }
  | .call _ => { pc := true, stack := true }
  | .seImm _ _ => { pc := true }
  | .sneImm _ _ => { pc := true }
  | .seReg _ _ => { pc := true }
  | .ldImm x _ => { regs := [x] }
  | .addImm x _ => { regs := [x] }
  | .ldReg x _ => { regs := [x] }
  | .orReg x _ => { regs := [x] }
  | .andReg x _ => { regs := [x] }
  | .xorReg x _ => { regs := [x] }
  | .addReg x _ => { regs := [x, flagIdx] }
  | .subReg x _ => { regs := [x, flagIdx] }
  | .shr x _ => { regs := [x, flagIdx] }
  | .subn x _ => { regs := [x, flagIdx] }
  | .shl x _ => { regs := [x, flagIdx] }
  | .sneReg _ _ => { pc := true }
  | .ldI _ => { index := true }
  | .jpV0 _ => { pc := true }
  | .rnd x _ => { regs := [x] }
  | .drw _ _ _ => { regs := [flagIdx], screen := true }
  | .skp _ => { pc := true }
  | .sknp _ => { pc := true }
  | .ldVxDt x => { regs := [x] }
  | .ldVxK x => { regs := [x], pc := true }
  | .ldDtVx _ => { dt := true }
  | .ldStVx _ => { st := true }
  | .addI _ => { index := true }
  | .ldF _ => { index := true }
  | .ldB _ => { memFrom := s.i.toNat, memLen := 3 }
  | .ldMemVx x => { memFrom := s.i.toNat, memLen := x.val + 1 }
  | .ldVxMem x => { regs := (List.finRange 16).take (x.val + 1) }

/-- An instruction for which no condition of the fault table holds completes within its frame, and keeps the canonical form of memory. -/
theorem exec_completes {i : Instr} {s : State} (h : ∀ cause, ¬ InstrFaults s cause i) :
    ∃ t, exec i s = .next t ∧ Frame (writesOf s i) s t ∧ (Memory.wf s.config s.mem → Memory.wf s.config t.mem) := by
  cases i
  case cls => exact ⟨_, rfl, frame_setScreen s _, id⟩
  case ret =>
    obtain ⟨k, hk⟩ := State.top_of_used (h .stackUnderflow)
    exact ⟨_, exec_ret_of_top s k hk, frame_setStack s _ _ _, id⟩
  case sys nnn => exact ⟨_, rfl, frame_signalUnknown _ s, id⟩
  case jp | jpV0 => exact ⟨_, rfl, frame_jump s _, id⟩
  case call nnn =>
    have hfree := State.free_of_not_full (h .stackOverflow)
    exact ⟨_, exec_call_of_lt nnn s hfree, frame_setStack s _ _ _, id⟩
  case seImm | sneImm | seReg | sneReg => exact ⟨_, rfl, frame_skipIf s _, by rw [State.skipIf_mem]; exact id⟩
  case addReg | subReg | shr | subn | shl => exact ⟨_, rfl, frame_writeAlu s _ _, id⟩
  case ldI | addI | ldF => exact ⟨_, rfl, frame_setIndex s _, id⟩
  case drw x y n =>
    have hin := rows_in_memory (h .memRange)
    exact ⟨_, exec_drw_of_lt x y n s hin, frame_drwResult x y n s, id⟩
  case skp x =>
    obtain ⟨k, hk⟩ := keyIdx_of_in_range (h .keyRange)
    exact ⟨_, exec_skp_of_key x s k hk, frame_skipIf s _, by rw [State.skipIf_mem]; exact id⟩
  case sknp x =>
    obtain ⟨k, hk⟩ := keyIdx_of_in_range (h .keyRange)
    exact ⟨_, exec_sknp_of_key x s k hk, frame_skipIf s _, by rw [State.skipIf_mem]; exact id⟩
  case ldVxK x =>
    cases hscan : s.firstPressed with
    | some k => exact ⟨_, exec_ldVxK_pressed x hscan, { frame_setReg s x _ with pc := nofun }, id⟩
    | none => exact ⟨_, exec_ldVxK_waits x hscan, { frame_jump s _ with regs := fun _ _ => rfl }, id⟩
  case ldDtVx x => exact ⟨_, rfl, frame_setDt s _, id⟩
  case ldStVx x => exact ⟨_, rfl, frame_setSt s _, id⟩
  case ldB x =>
    have hin := Nat.lt_of_not_ge (h .memRange)
    exact ⟨_, exec_ldB_of_lt x s hin, frame_writeBytes s _ (bcdDigits (s.reg x)) 3 rfl, State.wf_writeBytes s _ _⟩
  case ldMemVx x =>
    have hin := Nat.lt_of_not_ge (h .memRange)
    exact ⟨_, exec_ldMemVx_of_lt x s hin, frame_writeBytes s _ _ _ (State.regsUpTo_length s x), State.wf_writeBytes s _ _⟩
  case ldVxMem x =>
    have hin := Nat.lt_of_not_ge (h .memRange)
    exact ⟨_, exec_ldVxMem_of_lt x s hin, frame_loadRegs s x _, id⟩
  case ldImm | addImm | ldReg | orReg | andReg | xorReg | rnd | ldVxDt => exact ⟨_, rfl, frame_setReg s _ _, id⟩

/-- What an instruction answers: a completed state in its frame, or its fault and nothing else written. -/
theorem exec_next_cases {i : Instr} {s t : State} (h : exec i s = .next t) :
    ((∀ cause, ¬ InstrFaults s cause i) ∧ Frame (writesOf s i) s t ∧
      (Memory.wf s.config s.mem → Memory.wf s.config t.mem)) ∨
    (∃ cause, InstrFaults s cause i ∧ t = raiseFault cause (s.pc - 2) s) := by
  by_cases hf : ∃ cause, InstrFaults s cause i
  · obtain ⟨cause, hc⟩ := hf
    rw [exec_of_instrFaults hc] at h
    cases h
    exact .inr ⟨cause, hc, rfl⟩
  · rw [not_exists] at hf
    obtain ⟨t', ht, written⟩ := exec_completes hf
    rw [ht] at h
    cases h
    exact .inl ⟨hf, written⟩

/-! ## Writers -/

section Writers
variable {s : State} {i : Instr}

theorem writesOf_index (h : (writesOf s i).index = true) : (∃ nnn, i = .ldI nnn) ∨ ∃ x, i = .addI x ∨ i = .ldF x := by
  cases i <;> simp [writesOf] at h ⊢

theorem writesOf_stack (h : (writesOf s i).stack = true) : i = .ret ∨ ∃ nnn, i = .call nnn := by
  cases i <;> simp [writesOf] at h ⊢

theorem writesOf_dt (h : (writesOf s i).dt = true) : ∃ x, i = .ldDtVx x := by
  cases i <;> simp [writesOf] at h ⊢

theorem writesOf_st (h : (writesOf s i).st = true) : ∃ x, i = .ldStVx x := by
  cases i <;> simp [writesOf] at h ⊢

theorem writesOf_screen (h : (writesOf s i).screen = true) : i = .cls ∨ ∃ x y n, i = .drw x y n := by
  cases i <;> simp [writesOf] at h ⊢

theorem writesOf_memLen (h : (writesOf s i).memLen ≠ 0) : ∃ x, i = .ldB x ∨ i = .ldMemVx x := by
  cases i <;> simp [writesOf] at h ⊢

end Writers

/-- A part that has changed is one the frame names. -/
theorem changed_written {b : Bool} {p : Prop} (kept : b = false → p) (h : ¬ p) : b = true :=
  (Bool.not_eq_false b).mp (mt kept h)

/-- The registers of a block load. -/
theorem le_of_mem_take_finRange {r x : RegIdx} (h : r ∈ (List.finRange 16).take (x.val + 1)) : r.val ≤ x.val := by
  obtain ⟨j, hj, rfl⟩ := List.mem_take_iff_getElem.mp h
  simp only [List.getElem_finRange, Fin.val_cast]
  omega

/-- Settles O36: a fault writes no register, and a completed instruction those of its frame. -/
theorem registerWriters : Obligations.RegisterWriters := by
  intro s t i r h hr
  obtain ⟨-, frame, -⟩ | ⟨cause, -, rfl⟩ := exec_next_cases h
  · have hmem : r ∈ (writesOf s i).regs := by_contra fun hno => hr (frame.regs r hno)
    cases i
    case ldImm | addImm | rnd | ldReg | orReg | andReg | xorReg | drw | ldVxDt | ldVxK =>
      cases List.mem_singleton.mp hmem
      simp
    case addReg | subReg | shr | subn | shl =>
      obtain rfl | rfl : r = _ ∨ r = flagIdx := by simpa [writesOf] using hmem
      · simp
      · simp
    case ldVxMem x =>
      have hle := le_of_mem_take_finRange hmem
      exact .inr (.inr (.inr (.inr (.inl ⟨x, rfl, hle⟩))))
    all_goals simp [writesOf] at hmem
  · exact absurd rfl hr

/-- Settles O37: a fault writes none of these parts, and a completed instruction those of its frame. -/
theorem stateWriters : Obligations.StateWriters := by
  intro s t i h
  obtain ⟨-, frame, -⟩ | ⟨cause, -, rfl⟩ := exec_next_cases h
  · refine ⟨fun hi => ?_, fun hstack => ?_, fun hdt => ?_, fun hst => ?_, fun hscreen => ?_, fun hread => ?_, frame.keys⟩
    · exact writesOf_index (changed_written frame.index hi)
    · exact writesOf_stack (changed_written frame.stack fun kept => hstack.elim (absurd kept.1) fun ⟨k, hk⟩ => hk (kept.2 k))
    · exact writesOf_dt (changed_written frame.dt hdt)
    · exact writesOf_st (changed_written frame.st hst)
    · exact writesOf_screen (changed_written frame.screen fun kept => hscreen.elim fun y ⟨x, hpix⟩ => hpix (kept y x))
    · obtain ⟨a, ha⟩ := hread
      have hin := not_not.mp (mt (frame.memory a) ha)
      exact writesOf_memLen (s := s) (by omega)
  · refine ⟨absurd rfl, ?_, absurd rfl, absurd rfl, ?_, ?_, fun _ => rfl⟩
    · rintro (hsp | ⟨k, hk⟩)
      · exact absurd rfl hsp
      · exact absurd rfl hk
    · rintro ⟨y, x, hpix⟩
      exact absurd rfl hpix
    · rintro ⟨a, ha⟩
      exact absurd rfl ha

end Sys2Proof.Machine
end

section
/-!
PROOFS, the random byte (spec/60_exceptions.md R211). No condition of the fault table and no meaning but RND's reads it, so a run with
another byte goes the same way.
-/

namespace Sys2Proof.Machine

/-- The fault table reads I, SP and the registers alone. -/
theorem InstrFaults.congr {s u : State} (hv : u.v = s.v) (hi : u.i = s.i) (hsp : u.sp = s.sp) (cause : FaultCause) (i : Instr) :
    InstrFaults u cause i ↔ InstrFaults s cause i := by
  unfold InstrFaults
  simp only [State.reg, hv, hi, hsp]

theorem State.writeBytes_withRand (s : State) (r : Byte) (a : Nat) (l : List Byte) :
    (s.withRand r).writeBytes a l = (s.writeBytes a l).withRand r := by
  induction l generalizing s a with
  | nil => rfl
  | cons u rest ih => exact ih (s.writeByte a u) (a + 1)

theorem State.skipIf_withRand (s : State) (r : Byte) (c : Bool) : (s.withRand r).skipIf c = (s.skipIf c).withRand r := by
  cases c <;> rfl

/-- Settles O23: a faulting run faults again, and a completed one repeats each of its writes. -/
theorem randomByteReadOnlyByRnd : Obligations.RandomByteReadOnlyByRnd := by
  intro s t i r hrnd h
  obtain ⟨hno, -⟩ | ⟨cause, hc, rfl⟩ := exec_next_cases h
  case inr => exact exec_of_instrFaults ((InstrFaults.congr rfl rfl rfl cause i).mpr hc)
  cases i
  case rnd x kk => exact absurd rfl (hrnd x kk)
  case ret =>
    obtain ⟨k, hk⟩ := State.top_of_used (hno .stackUnderflow)
    rw [exec_ret_of_top s k hk] at h
    cases h
    exact exec_ret_of_top (s.withRand r) k hk
  case call nnn =>
    have hfree := State.free_of_not_full (hno .stackOverflow)
    rw [exec_call_of_lt nnn s hfree] at h
    cases h
    exact exec_call_of_lt nnn (s.withRand r) hfree
  case drw x y n =>
    have hin := rows_in_memory (hno .memRange)
    rw [exec_drw_of_lt x y n s hin] at h
    cases h
    exact exec_drw_of_lt x y n (s.withRand r) hin
  case skp x =>
    obtain ⟨k, hk⟩ := keyIdx_of_in_range (hno .keyRange)
    rw [exec_skp_of_key x s k hk] at h
    cases h
    rw [← State.skipIf_withRand]
    exact exec_skp_of_key x (s.withRand r) k hk
  case sknp x =>
    obtain ⟨k, hk⟩ := keyIdx_of_in_range (hno .keyRange)
    rw [exec_sknp_of_key x s k hk] at h
    cases h
    rw [← State.skipIf_withRand]
    exact exec_sknp_of_key x (s.withRand r) k hk
  case seImm | sneImm | seReg | sneReg =>
    cases h
    rw [← State.skipIf_withRand]
    rfl
  case ldVxK x =>
    cases hscan : s.firstPressed with
    | some k =>
      rw [exec_ldVxK_pressed x hscan] at h
      cases h
      exact exec_ldVxK_pressed x (s := s.withRand r) hscan
    | none =>
      rw [exec_ldVxK_waits x hscan] at h
      cases h
      exact exec_ldVxK_waits x (s := s.withRand r) hscan
  case ldB x =>
    have hin := Nat.lt_of_not_ge (hno .memRange)
    rw [exec_ldB_of_lt x s hin] at h
    cases h
    rw [← State.writeBytes_withRand]
    exact exec_ldB_of_lt x (s.withRand r) hin
  case ldMemVx x =>
    have hin := Nat.lt_of_not_ge (hno .memRange)
    rw [exec_ldMemVx_of_lt x s hin] at h
    cases h
    rw [← State.writeBytes_withRand]
    exact exec_ldMemVx_of_lt x (s.withRand r) hin
  case ldVxMem x =>
    have hin := Nat.lt_of_not_ge (hno .memRange)
    rw [exec_ldVxMem_of_lt x s hin] at h
    cases h
    exact exec_ldVxMem_of_lt x (s.withRand r) hin
  all_goals
    cases h
    rfl

end Sys2Proof.Machine
end

section
/-!
PROOFS, the step cycle and the faults (spec/30_encoding.md R70, spec/60_exceptions.md R200 to R208). A STEP of a running CORE faults at
the fetch, signals an unknown word, or runs the decoded instruction, which completes in its frame or raises its fault.
-/

namespace Sys2Proof.Machine

/-! ## Which command a step performs -/

theorem step_of_queued {s : State} {c : Command} {rest : List Command} (h : s.inbox = c :: rest) :
    step s = perform c { s with inbox := rest } := by
  simp only [step, nextCommand, h]

theorem step_of_idle {s : State} (h : s.inbox = []) : step s = perform (.step (Config.freeRand s.draws)) s := by
  simp only [step, nextCommand, h]

/-- Settles O48: the queue is empty or has an oldest command. -/
theorem stepPerformsNextCommand : Obligations.StepPerformsNextCommand :=
  fun _ => ⟨fun _ _ h => step_of_queued h, fun h => ⟨_, step_of_idle h⟩⟩

/-! ## What a STEP does -/

theorem perform_step (r : Byte) (s : State) : perform (.step r) s = stepCore r s := rfl

theorem stepCore_decoded {s : State} {i : Instr} (r : Byte) (hf : s.faulted = false) (hpc : s.pc.toNat + 1 < 4096)
    (hd : decodeBytes s.config.decode59 [s.readByte s.pc.toNat, s.readByte (s.pc.toNat + 1)] = .ok (i, [])) :
    stepCore r s =
      exec i (advance (wordOfBytes (s.readByte s.pc.toNat) (s.readByte (s.pc.toNat + 1))) (beginStep r s)) := by
  rw [stepCore_fetched r s hf hpc]
  simp [executeWord, (decodeBytes_pair ..).mp hd]

/-- Settles O7: the decoded instruction runs in the state with PC advanced and the word latched. -/
theorem stepRunsDecodedInstruction : Obligations.StepRunsDecodedInstruction := by
  intro s i r rest hf hpc hd
  constructor
  · intro hidle
    rw [step_of_idle hidle]
    exact stepCore_decoded _ hf hpc hd
  · intro hqueued
    rw [step_of_queued hqueued]
    exact stepCore_decoded (s := { s with inbox := rest }) r hf hpc hd

/-- Settles O9: the fetch fault is raised at PC. -/
theorem fetchBeyondMemoryFaults : Obligations.FetchBeyondMemoryFaults :=
  fun s r hf hout => ⟨_, stepCore_beyond r s hf hout, rfl, rfl⟩

/-- Settles O10: a word on the list of R81 does not decode, and a word that does not decode is signalled. -/
theorem unknownOpcodeIsDiagnosedAndSkipped : Obligations.UnknownOpcodeIsDiagnosedAndSkipped := by
  intro s r w hf hpc hw hunknown
  obtain rfl : w = wordOfBytes (s.readByte s.pc.toNat) (s.readByte (s.pc.toNat + 1)) :=
    BitVec.eq_of_toNat_eq (hw.trans (wordOfBytes_toNat ..).symm)
  have hno := (unknownWordsAreTheListed s.config.decode59 _).mpr hunknown
  obtain ⟨hout, -⟩ | ⟨-, _, rfl, ⟨-, hsignal⟩ | ⟨i, hd, -⟩⟩ := stepCore_cases r s hf
  · omega
  · rw [perform_step, hsignal]
    simp only [signalUnknown, State.instrAddr, advance_pc_sub]
    rfl
  · exact absurd hd (hno i)

/-- Settles O47: the STEP overwrites every field of the port before it runs the instruction. -/
theorem previousWordNeverRead : Obligations.PreviousWordNeverRead := by
  intro s r p hf hpc
  rw [perform_step, perform_step, stepCore_fetched r s hf hpc, stepCore_fetched r { s with port := p } hf hpc]
  rfl

/-! ## Every step answers a next state -/

theorem exec_answers (i : Instr) (s : State) : ∃ t, exec i s = .next t := by
  obtain ⟨t, ht, -⟩ | ⟨cause, -, -, hfault⟩ := exec_cases i s
  · exact ⟨t, ht⟩
  · exact ⟨_, hfault⟩

theorem stepCore_answers (r : Byte) (s : State) : ∃ t, stepCore r s = .next t := by
  cases hf : s.faulted with
  | true => exact ⟨s, stepCore_of_faulted r s hf⟩
  | false =>
    obtain ⟨-, hfault⟩ | ⟨-, w, -, ⟨-, hsignal⟩ | ⟨i, -, hexec⟩⟩ := stepCore_cases r s hf
    · exact ⟨_, hfault⟩
    · exact ⟨_, hsignal⟩
    · rw [hexec]
      exact exec_answers i _

theorem perform_answers (c : Command) (s : State) : ∃ t, perform c s = .next t := by
  cases c
  case step r => exact stepCore_answers r s
  all_goals exact ⟨_, rfl⟩

/-- Settles O11: whatever the step performs answers a next state. -/
theorem everyStepAnswersNext : Obligations.EveryStepAnswersNext :=
  fun s => perform_answers (nextCommand s).1 (nextCommand s).2

/-! ## The faults of a STEP -/

/-- The state in which the instruction of a STEP runs is under the fault table as the STEP's own. -/
theorem instrFaults_fetched (s : State) (w : Word) (r : Byte) (cause : FaultCause) (i : Instr) :
    InstrFaults (advance w (beginStep r s)) cause i ↔ InstrFaults s cause i :=
  InstrFaults.congr rfl rfl rfl cause i

theorem InstrFaults.cause_ne_none {s : State} {cause : FaultCause} {i : Instr} (h : InstrFaults s cause i) : cause ≠ .none := by
  rintro rfl
  cases i <;> exact h

/-- No instruction has two causes, since it raises only one. -/
theorem InstrFaults.unique {s : State} {cause cause' : FaultCause} {i : Instr} (h : InstrFaults s cause i)
    (h' : InstrFaults s cause' i) : cause = cause' := by
  have heq := (exec_of_instrFaults h).symm.trans (exec_of_instrFaults h')
  injection heq with hst
  exact congrArg State.faultCause hst

/-- What a STEP of a running CORE answers: it runs on without a fault, where the fault table names none, or it raises the one that the
table names, at the instruction (R201, R202). -/
theorem stepCore_next_cases {r : Byte} {s t : State} (hf : s.faulted = false) (h : stepCore r s = .next t) :
    (t.faulted = false ∧ ∀ cause, ¬ StepFaults s cause) ∨
    (∃ cause, cause ≠ .none ∧ (∀ cause', StepFaults s cause' ↔ cause' = cause) ∧ t.port.diag = none ∧
      t = { s with faulted := true, faultCause := cause, faultPc := s.pc, pc := s.pc, port := t.port, draws := t.draws }) := by
  obtain ⟨hout, hfault⟩ | ⟨hpc, w, rfl, ⟨⟨e, hd⟩, hsignal⟩ | ⟨i, hd, hexec⟩⟩ := stepCore_cases r s hf
  case inl =>
    rw [hfault] at h
    cases h
    refine .inr ⟨.fetchRange, by decide, fun cause' => ?_, rfl, rfl⟩
    exact ⟨fun hs => hs.elim And.left fun hs => absurd hs.1 (by omega), fun hc => .inl ⟨hc, hout⟩⟩
  case inr.inl =>
    rw [hsignal] at h
    cases h
    refine .inl ⟨hf, fun cause hs => ?_⟩
    obtain ⟨-, hout⟩ | ⟨-, i, hi, -⟩ := hs
    · omega
    · rw [decodeBytes_pair, hd] at hi
      cases hi
  case inr.inr =>
    have table (cause : FaultCause) : StepFaults s cause ↔ InstrFaults s cause i := by
      simp only [StepFaults, decodeBytes_pair, hd, Except.ok.injEq]
      constructor
      · rintro (⟨-, hout⟩ | ⟨-, _, rfl, hi⟩)
        · omega
        · exact hi
      · exact fun hi => .inr ⟨hpc, i, rfl, hi⟩
    rw [hexec] at h
    obtain ⟨hno, frame, -⟩ | ⟨cause, hc, rfl⟩ := exec_next_cases h
    · refine .inl ⟨frame.fault.1.trans hf, fun cause hs => hno cause ?_⟩
      rwa [instrFaults_fetched, ← table]
    · rw [instrFaults_fetched] at hc
      refine .inr ⟨cause, hc.cause_ne_none, fun cause' => (table cause').trans ⟨fun h' => h'.unique hc, fun h' => h' ▸ hc⟩, rfl, ?_⟩
      rw [advance_pc_sub]
      rfl

/-- Settles O38: a STEP that faults is of the second kind. -/
theorem faultsArePrecise : Obligations.FaultsArePrecise := by
  intro s t r hf h hfaulted
  obtain ⟨hrunning, -⟩ | ⟨cause, hcause, -, hdiag, ht⟩ := stepCore_next_cases hf h
  · exact absurd (hrunning.symm.trans hfaulted) Bool.false_ne_true
  · have hcode : t.faultCause = cause := congrArg State.faultCause ht
    subst hcode
    exact ⟨hcause, hdiag, ht⟩

/-- Settles O39: a STEP runs on exactly where the table names no cause, and faults with the one cause that it names. -/
theorem stepFaultsExactlyAsTabled : Obligations.StepFaultsExactlyAsTabled := by
  refine ⟨fun s t r cause hf _ h => ?_, rfl⟩
  obtain ⟨hrunning, hno⟩ | ⟨cause', -, table, -, ht⟩ := stepCore_next_cases hf h
  · simp [hrunning, hno cause]
  · have hfaulted : t.faulted = true := congrArg State.faulted ht
    have hcode : t.faultCause = cause' := congrArg State.faultCause ht
    simp only [hfaulted, hcode, table, true_and, eq_comm]

/-! ## The other commands -/

/-- LOAD stores the image, or changes nothing (R243). -/
theorem loadImage_cases (img : List Byte) (s : State) :
    loadImage img s = s ∨ loadImage img s = s.writeBytes programBase img :=
  ite_eq_or_eq ..

/-- TICK writes the timers, or changes nothing (R212). -/
theorem tickTimers_cases (s : State) :
    tickTimers s = s ∨ tickTimers s = { s with dt := countDown s.dt, st := countDown s.st } :=
  ite_eq_or_eq ..

/-- While the CORE is faulted, what is not a RESET keeps the fault status and PC (R203). -/
theorem perform_of_faulted {c : Command} {s t : State} (hf : s.faulted = true) (hc : c ≠ .reset) (h : perform c s = .next t) :
    t.faulted = true ∧ t.faultCause = s.faultCause ∧ t.faultPc = s.faultPc ∧ t.pc = s.pc := by
  cases c
  case reset => exact absurd rfl hc
  case load img =>
    cases h
    obtain hload | hload := loadImage_cases img s <;> rw [hload]
    · exact ⟨hf, rfl, rfl, rfl⟩
    · simp [hf]
  case step r =>
    rw [perform_step, stepCore_of_faulted r s hf] at h
    cases h
    exact ⟨hf, rfl, rfl, rfl⟩
  case tick =>
    rw [perform_tick, tickTimers_of_faulted hf] at h
    cases h
    exact ⟨hf, rfl, rfl, rfl⟩
  case keySet k pressed =>
    cases h
    exact ⟨hf, rfl, rfl, rfl⟩

/-- The lines after a KEY_SET. -/
theorem keySet_keys (s : State) (k j : KeyIdx) (pressed : Bool) :
    (keySet k pressed s).keys[j] = if j = k then pressed else s.keys[j] := by
  simp only [keySet, Fin.getElem_fin, Vector.getElem_set, Fin.ext_iff, eq_comm]

/-- Settles O40: STEP and TICK do nothing, KEY_SET and LOAD write no fault field, and RESET clears them. -/
theorem faultedUntilReset : Obligations.FaultedUntilReset := by
  intro s hf
  refine ⟨fun r => stepCore_of_faulted r s hf, ?_, fun k p t h => ?_, fun c t hc h => perform_of_faulted hf hc h, _, rfl, rfl, rfl, rfl⟩
  · rw [perform_tick, tickTimers_of_faulted hf]
  · cases h
    exact (keySet_keys s k k p).trans (if_pos rfl)

/-- Settles O45: KEY_SET is one write of the keypad. -/
theorem keySetWritesOneLine : Obligations.KeySetWritesOneLine := by
  intro s k pressed
  exact ⟨_, rfl, (keySet_keys s k k pressed).trans (if_pos rfl), fun j hj => (keySet_keys s k j pressed).trans (if_neg hj), rfl⟩

/-- Settles O42: the read sees DT as the TICK left it, one below what was written. -/
theorem tickBetweenWriteAndRead : Obligations.TickBetweenWriteAndRead := by
  intro s t u x y hf hwrite htick
  cases hwrite
  rw [perform_tick, tickTimers_of_running (s := { s with dt := s.reg x }) hf] at htick
  cases htick
  refine ⟨_, exec_ldVxDt y _, ?_⟩
  rw [State.reg_setReg_self]
  exact countDown_toNat (s.reg x)

/-- Settles O43: LOAD is a store from PROGRAM_BASE up, or nothing. -/
theorem loadCopiesImage : Obligations.LoadCopiesImage := by
  intro s img
  constructor
  · intro hfits
    have hload : loadImage img s = s.writeBytes programBase img := if_neg (show ¬ 0x200 + img.length > 4096 by omega)
    refine ⟨_, congrArg Host.Outcome.next hload, frame_writeBytes s _ img _ rfl, fun j hj => ?_⟩
    exact State.readByte_writeBytes_inside s programBase img j hj hfits
  · intro hlong
    exact congrArg Host.Outcome.next (if_pos hlong)

theorem resetCore_readByte (s : State) (a : Nat) : (resetCore s).readByte a = Memory.unlisted s.config a := rfl

/-- Settles O44: RESET writes a constant in every field, and memory reads as the empty list does. -/
theorem resetValues : Obligations.ResetValues := by
  intro s
  refine ⟨resetCore s, rfl, fun x => ?_, rfl, rfl, rfl, fun k => ?_, rfl, rfl, fun k => ?_, Screen.pixel_blank, fun d j => ?_,
    fun a ha => ?_, rfl, rfl, rfl⟩
  · exact Vector.getElem_replicate _
  · exact Vector.getElem_replicate _
  · exact Vector.getElem_replicate _
  · rw [resetCore_readByte, Nat.add_assoc]
    exact Memory.unlisted_font s.config _ (by omega)
  · exact Memory.unlisted_other s.config a ha

/-- Settles O46: the row and the column of an address are its quotient and its remainder by 64. -/
theorem framebufferPortIsRowMajor : Obligations.FramebufferPortIsRowMajor := by
  intro s y x a ha
  have hy : a.val / 64 = y.val := by omega
  have hx : a.val % 64 = x.val := by omega
  simp only [State.fbPort, hy, hx]

end Sys2Proof.Machine
end

section
/-!
PROOFS, the canonical form of memory (spec/20_memory.md; log entry 8). An entry of a canonical list is exactly an address that reads
otherwise than RESET leaves it, so the reads fix the entries, and the order fixes the list.
-/

namespace Sys2Proof.Machine

/-- An entry of a list with rising addresses is found. -/
theorem Memory.lookup_of_mem {m : Memory} {a : Nat} {u : Byte} (hm : m.Pairwise fun p q => p.1 < q.1) (h : (a, u) ∈ m) :
    m.lookup a = some u := by
  induction m with
  | nil => simp at h
  | cons p rest ih =>
    obtain ⟨hfirst, hrest⟩ := List.pairwise_cons.mp hm
    obtain rfl | hin := List.mem_cons.mp h
    · simp [Memory.lookup]
    · have hne : a ≠ p.1 := (hfirst _ hin).ne'
      rw [Memory.lookup, if_neg hne, ih hrest hin]

/-- The entries of a canonical list are the bytes that differ from what RESET leaves. -/
theorem Memory.mem_iff_get {c : Config} {m : Memory} (hm : Memory.wf c m) (a : Nat) (u : Byte) :
    (a, u) ∈ m ↔ a < memSize ∧ u ≠ Memory.unlisted c a ∧ Memory.get c m a = u := by
  constructor
  · intro h
    obtain ⟨ha, hu⟩ := hm.2 _ h
    exact ⟨ha, hu, by simp [Memory.get, Memory.lookup_of_mem hm.1 h]⟩
  · rintro ⟨-, hu, hget⟩
    rw [Memory.get] at hget
    cases hl : m.lookup a with
    | none => exact absurd hget.symm (by simpa [hl] using hu)
    | some v =>
      rw [hl] at hget
      exact hget ▸ Memory.mem_of_lookup hl

/-- Settles O54: the two lists have the same entries, both in rising order. -/
theorem equalReadsEqualMemories : Obligations.EqualReadsEqualMemories := by
  intro c m m' hm hm' hread
  have irrefl : Std.Irrefl fun p q : Host.Cell => p.1 < q.1 := ⟨fun _ => lt_irrefl _⟩
  refine hm.1.eq_of_mem_iff hm'.1 fun p => ?_
  rw [Memory.mem_iff_get hm, Memory.mem_iff_get hm']
  exact and_congr_right fun ha => by rw [hread p.1 ha]

end Sys2Proof.Machine
end

section
/-!
PROOFS, invariants. What every step keeps is what the queue does not matter to and every command keeps; a STEP is then a fetch fault, a
diagnostic, or an instruction in the state the fetch left.
-/

namespace Sys2Proof.Machine

/-! ## Induction on what a step performs -/

/-- A step performs some command, in the state with its queue one shorter. -/
theorem step_performs (s : State) : ∃ c, step s = perform c { s with inbox := s.inbox.tail } := by
  obtain ⟨c, rest, hq, hstep⟩ | ⟨hq, hstep⟩ := step_cases s
  · exact ⟨c, by rw [hstep, hq]; rfl⟩
  · refine ⟨.step (Config.freeRand s.draws), hstep.trans ?_⟩
    rw [hq, List.tail_nil, ← hq]
    rfl

/-- What a STEP keeps: it is enough that the fetch fault, the diagnostic and every instruction keep it, on a running CORE. -/
theorem stepCore_keeps {P : State → Prop} {r : Byte} {s t : State} (hs : P s)
    (hfetch : s.pc.toNat + 1 ≥ 4096 → P (raiseFault .fetchRange s.pc (beginStep r s)))
    (hsignal : ∀ w, s.faulted = false → s.pc.toNat + 1 < 4096 → P (signalUnknown w (advance w (beginStep r s))))
    (hexec : ∀ w i, s.faulted = false → s.pc.toNat + 1 < 4096 → exec i (advance w (beginStep r s)) = .next t → P t)
    (h : stepCore r s = .next t) : P t := by
  cases hf : s.faulted with
  | true =>
    rw [stepCore_of_faulted r s hf] at h
    cases h
    exact hs
  | false =>
    obtain ⟨hout, hfault⟩ | ⟨hpc, w, -, ⟨-, hunknown⟩ | ⟨i, -, hrun⟩⟩ := stepCore_cases r s hf
    · rw [hfault] at h
      cases h
      exact hfetch hout
    · rw [hunknown] at h
      cases h
      exact hsignal w hf hpc
    · exact hexec w i hf hpc (hrun ▸ h)

/-! ## The parameters and the queue -/

/-- An instruction keeps the parameters and the queue, in completing and in faulting alike. -/
theorem exec_keeps_config {i : Instr} {s t : State} (h : exec i s = .next t) : t.config = s.config ∧ t.inbox = s.inbox := by
  obtain ⟨-, frame, -⟩ | ⟨cause, -, rfl⟩ := exec_next_cases h
  · exact ⟨frame.model.1, frame.model.2.1⟩
  · exact ⟨rfl, rfl⟩

theorem perform_keeps_config {c : Command} {s t : State} (h : perform c s = .next t) :
    t.config = s.config ∧ t.inbox = s.inbox := by
  cases c
  case step r =>
    exact stepCore_keeps (P := fun u => u.config = s.config ∧ u.inbox = s.inbox) ⟨rfl, rfl⟩ (fun _ => ⟨rfl, rfl⟩)
      (fun _ _ _ => ⟨rfl, rfl⟩) (fun w _ _ _ he => exec_keeps_config (s := advance w (beginStep r s)) he) h
  all_goals cases h
  case reset => exact ⟨rfl, rfl⟩
  case load img =>
    obtain hload | hload := loadImage_cases img s <;> rw [hload]
    · exact ⟨rfl, rfl⟩
    · simp
  case tick =>
    obtain htick | htick := tickTimers_cases s <;> rw [htick]
    · exact ⟨rfl, rfl⟩
    · exact ⟨rfl, rfl⟩
  case keySet k pressed => exact ⟨rfl, rfl⟩

/-- Settles O53: the command is performed with the queue one shorter, and writes neither. -/
theorem parametersNeverChange : Obligations.ParametersNeverChange := by
  intro s t h
  obtain ⟨c, hstep⟩ := step_performs s
  exact perform_keeps_config (hstep ▸ h)

/-! ## The canonical memory and the fault status -/

/-- A fault keeps memory, and records a cause with PC at the instruction. -/
theorem State.Coherent.faulted_by {s : State} (hs : s.Coherent) {cause : FaultCause} (hc : cause ≠ .none) (a : Word) :
    (raiseFault cause a s).Coherent :=
  ⟨hs.memory, nofun, fun _ => ⟨hc, rfl⟩⟩

/-- A running CORE stays coherent in whatever keeps the fault status and the canonical form. -/
theorem State.Coherent.of_running {s t : State} (hs : s.Coherent) (hf : s.faulted = false)
    (hfault : t.faulted = s.faulted ∧ t.faultCause = s.faultCause ∧ t.faultPc = s.faultPc)
    (hmem : Memory.wf t.config t.mem) : t.Coherent := by
  obtain ⟨hfaulted, hcause, hpc⟩ := hfault
  refine ⟨hmem, fun _ => ?_, fun h => ?_⟩
  · rw [hcause, hpc]
    exact hs.quiet hf
  · exact absurd ((hfaulted.trans hf).symm.trans h) Bool.false_ne_true

theorem exec_keeps_coherent {i : Instr} {s t : State} (hs : s.Coherent) (hf : s.faulted = false) (h : exec i s = .next t) :
    t.Coherent := by
  obtain ⟨-, frame, hmem⟩ | ⟨cause, hc, rfl⟩ := exec_next_cases h
  · exact hs.of_running hf frame.fault (frame.model.1 ▸ hmem hs.memory)
  · exact hs.faulted_by hc.cause_ne_none _

theorem stepCore_keeps_coherent {r : Byte} {s t : State} (hs : s.Coherent) (h : stepCore r s = .next t) : t.Coherent := by
  have begun : (beginStep r s).Coherent := ⟨hs.memory, hs.quiet, hs.held⟩
  have fetched (w : Word) (hf : s.faulted = false) : (advance w (beginStep r s)).Coherent :=
    begun.of_running hf ⟨rfl, rfl, rfl⟩ hs.memory
  refine stepCore_keeps hs (fun _ => ?_) (fun w hf _ => ?_) (fun w i hf _ he => ?_) h
  · exact begun.faulted_by (by decide) _
  · exact (fetched w hf).of_running hf ⟨rfl, rfl, rfl⟩ hs.memory
  · exact exec_keeps_coherent (fetched w hf) hf he

/-- Settles O49: the empty list is canonical, and no fault is recorded. -/
theorem coherentAtReset : Obligations.CoherentAtReset :=
  fun c => ⟨Memory.wf_nil c, fun _ => ⟨rfl, rfl⟩, nofun⟩

theorem loadImage_keeps_coherent {s : State} (hs : s.Coherent) (img : List Byte) : (loadImage img s).Coherent := by
  obtain hload | hload := loadImage_cases img s <;> rw [hload]
  · exact hs
  · refine ⟨?_, by simpa using hs.quiet, by simpa using hs.held⟩
    rw [State.writeBytes_config]
    exact State.wf_writeBytes s _ _ hs.memory

theorem tickTimers_keeps_coherent {s : State} (hs : s.Coherent) : (tickTimers s).Coherent := by
  obtain htick | htick := tickTimers_cases s <;> rw [htick]
  · exact hs
  · exact ⟨hs.memory, hs.quiet, hs.held⟩

theorem perform_keeps_coherent {c : Command} {s t : State} (hs : s.Coherent) (h : perform c s = .next t) : t.Coherent := by
  cases c
  case step r => exact stepCore_keeps_coherent hs h
  all_goals cases h
  case reset => exact ⟨Memory.wf_nil s.config, fun _ => ⟨rfl, rfl⟩, nofun⟩
  case load img => exact loadImage_keeps_coherent hs img
  case tick => exact tickTimers_keeps_coherent hs
  case keySet k pressed => exact ⟨hs.memory, hs.quiet, hs.held⟩

/-- Settles O50: every command keeps both. -/
theorem stepKeepsCoherent : Obligations.StepKeepsCoherent := by
  intro s t hs h
  obtain ⟨c, hstep⟩ := step_performs s
  exact perform_keeps_coherent (s := { s with inbox := s.inbox.tail }) ⟨hs.memory, hs.quiet, hs.held⟩ (hstep ▸ h)

/-! ## The bounds of PC and of the return addresses -/

/-- Where an instruction can leave PC, which holds `a + 2` when it begins: there, past the next word, at its own address, at an
address of its word, or at a return address (R100, R101, R103, R104, R109, R183, R201). -/
inductive PcTarget (s : State) : Word → Prop
  | stays : PcTarget s s.pc
  | skips : PcTarget s (s.pc + 2)
  | own : PcTarget s (s.pc - 2)
  | jumps (nnn : Addr12) : PcTarget s (zextAddr nnn)
  | indexed (nnn : Addr12) (u : Byte) : PcTarget s (zextAddr nnn + u.setWidth 16)
  | returns (k : Fin 16) : PcTarget s (s.slot k)

theorem PcTarget.skipIf (s : State) (c : Bool) : PcTarget s (s.skipIf c).pc := by
  cases c
  · exact .stays
  · exact .skips

theorem exec_pcTarget {i : Instr} {s t : State} (h : exec i s = .next t) : PcTarget s t.pc := by
  obtain ⟨hno, frame, -⟩ | ⟨cause, -, rfl⟩ := exec_next_cases h
  case inr => exact .own
  cases i
  case jp nnn => cases h; exact .jumps nnn
  case jpV0 nnn => cases h; exact .indexed nnn _
  case seImm | sneImm | seReg | sneReg => cases h; exact .skipIf s _
  case skp x =>
    obtain ⟨k, hk⟩ := keyIdx_of_in_range (hno .keyRange)
    rw [exec_skp_of_key x s k hk] at h
    cases h
    exact .skipIf s _
  case sknp x =>
    obtain ⟨k, hk⟩ := keyIdx_of_in_range (hno .keyRange)
    rw [exec_sknp_of_key x s k hk] at h
    cases h
    exact .skipIf s _
  case call nnn =>
    have hfree := State.free_of_not_full (hno .stackOverflow)
    rw [exec_call_of_lt nnn s hfree] at h
    cases h
    exact .jumps nnn
  case ret =>
    obtain ⟨k, hk⟩ := State.top_of_used (hno .stackUnderflow)
    rw [exec_ret_of_top s k hk] at h
    cases h
    exact .returns k
  case ldVxK x =>
    cases hscan : s.firstPressed with
    | some k =>
      rw [exec_ldVxK_pressed x hscan] at h
      cases h
      exact .stays
    | none =>
      rw [exec_ldVxK_waits x hscan] at h
      cases h
      exact .own
  all_goals
    rw [frame.pc rfl]
    exact .stays

/-- An instruction leaves each slot alone or pushes PC to it. -/
theorem exec_slot {i : Instr} {s t : State} (h : exec i s = .next t) (j : Fin 16) : t.slot j = s.slot j ∨ t.slot j = s.pc := by
  obtain ⟨hno, frame, -⟩ | ⟨cause, -, rfl⟩ := exec_next_cases h
  case inr => exact .inl rfl
  cases i
  case call nnn =>
    have hfree := State.free_of_not_full (hno .stackOverflow)
    rw [exec_call_of_lt nnn s hfree] at h
    cases h
    have hset := State.slot_set s j s.pc s.sp.val hfree
    by_cases hj : j.val = s.sp.val
    · exact .inr (hset.trans (if_pos hj))
    · exact .inl (hset.trans (if_neg hj))
  case ret =>
    obtain ⟨k, hk⟩ := State.top_of_used (hno .stackUnderflow)
    rw [exec_ret_of_top s k hk] at h
    cases h
    exact .inl rfl
  all_goals exact .inl ((frame.stack rfl).2 j)

/-- The bounds hold at every target of an instruction that was fetched from memory. -/
theorem PcTarget.bounded {s : State} {w : Word} (h : PcTarget s w) (hs : s.PcBounded) (hlow : 2 ≤ s.pc.toNat)
    (hhigh : s.pc.toNat ≤ 0x1000) : w.toNat ≤ 0x10FE := by
  cases h with
  | stays => omega
  | skips => bv_omega
  | own => bv_omega
  | jumps nnn =>
    have := nnn.isLt
    rw [zextAddr_toNat]
    omega
  | indexed nnn u =>
    have := nnn.isLt
    have := u.isLt
    rw [zextAddr_add_toNat]
    omega
  | returns k => exact (hs.stack k).trans (by omega)

theorem exec_keeps_pcBounded {i : Instr} {s t : State} (hs : s.PcBounded) (hlow : 2 ≤ s.pc.toNat) (hhigh : s.pc.toNat ≤ 0x1000)
    (h : exec i s = .next t) : t.PcBounded := by
  refine ⟨(exec_pcTarget h).bounded hs hlow hhigh, fun k => ?_⟩
  obtain hk | hk := exec_slot h k
  · exact hk ▸ hs.stack k
  · exact hk ▸ hhigh

theorem stepCore_keeps_pcBounded {r : Byte} {s t : State} (hs : s.PcBounded) (h : stepCore r s = .next t) : t.PcBounded := by
  have next (hpc : s.pc.toNat + 1 < 4096) : (s.pc + 2).toNat = s.pc.toNat + 2 := by bv_omega
  have fetched (w : Word) (hpc : s.pc.toNat + 1 < 4096) : (advance w (beginStep r s)).PcBounded :=
    ⟨(next hpc).trans_le (by omega), hs.stack⟩
  refine stepCore_keeps hs (fun _ => ?_) (fun w _ hpc => ?_) (fun w i _ hpc he => ?_) h
  · exact ⟨hs.pc, hs.stack⟩
  · exact ⟨(fetched w hpc).pc, hs.stack⟩
  · refine exec_keeps_pcBounded (fetched w hpc) ?_ ?_ he
    · rw [advance_pc, beginStep_pc, next hpc]
      omega
    · rw [advance_pc, beginStep_pc, next hpc]
      omega

/-- Settles O51: PC is 0x200, and every slot 0. -/
theorem pcBoundedAtReset : Obligations.PcBoundedAtReset := by
  refine fun c => ⟨show (0x200#16).toNat ≤ 0x10FE by decide, fun k => ?_⟩
  have hslot : (State.resetFor c).slot k = 0 := Vector.getElem_replicate _
  rw [hslot]
  decide

theorem perform_keeps_pcBounded {c : Command} {s t : State} (hs : s.PcBounded) (h : perform c s = .next t) : t.PcBounded := by
  cases c
  case step r => exact stepCore_keeps_pcBounded hs h
  all_goals cases h
  case reset => exact ⟨(pcBoundedAtReset s.config).pc, (pcBoundedAtReset s.config).stack⟩
  case load img =>
    obtain hload | hload := loadImage_cases img s <;> rw [hload]
    · exact hs
    · exact ⟨by simpa using hs.pc, by simpa [State.slot] using hs.stack⟩
  case tick =>
    obtain htick | htick := tickTimers_cases s <;> rw [htick]
    · exact hs
    · exact ⟨hs.pc, hs.stack⟩
  case keySet k pressed => exact ⟨hs.pc, hs.stack⟩

/-- Settles O52: an instruction runs at `a + 2` of an address that could be fetched, and every other command keeps PC and the stack. -/
theorem stepKeepsPcBounded : Obligations.StepKeepsPcBounded := by
  intro s t hs h
  obtain ⟨c, hstep⟩ := step_performs s
  exact perform_keeps_pcBounded (s := { s with inbox := s.inbox.tail }) ⟨hs.pc, hs.stack⟩ (hstep ▸ h)

end Sys2Proof.Machine
end

section
/-!
PROOFS, the scheduler (spec/60_exceptions.md R214 to R219). An advance is a drain with fuel for every due step, so it takes one period
for each step it dispatches; over many advances the elapsed times add up to the time that has passed.
-/

namespace Sys2Proof.Machine

/-- One advance: none due after it, and every dispatched step drained one period of what was there and what the elapsed time added. -/
theorem Scheduler.advance_takes {h : HostConfig} (hp : 0 < h.clockHz) (now : Nat) (k : Scheduler) :
    (k.advance h now).1.stepAcc < h.clockHz ∧ (k.advance h now).1.tickAcc < h.clockHz ∧ (k.advance h now).1.lastSeen = now ∧
    (k.advance h now).1.stepAcc + h.clockHz * stepsOf .instructionStep (k.advance h now).2 =
      k.stepAcc + min (now - k.lastSeen) h.maxSlice * h.cpuHz ∧
    (k.advance h now).1.tickAcc + h.clockHz * stepsOf .timerStep (k.advance h now).2 =
      k.tickAcc + min (now - k.lastSeen) h.maxSlice * 60 :=
  Scheduler.drain_takes hp _ (k.observe h now) le_rfl

/-- The first step of a drain that has fuel is the due one. -/
theorem Scheduler.drain_head (h : HostConfig) {fuel : Nat} (k : Scheduler) (hfuel : 0 < fuel) :
    (Scheduler.drain h fuel k).2.head? = k.due h := by
  obtain ⟨n, rfl⟩ := Nat.exists_eq_add_one.mpr hfuel
  rw [Scheduler.drain]
  cases k.due h <;> rfl

theorem Scheduler.due_of_both {h : HostConfig} {k : Scheduler} (hstep : h.clockHz ≤ k.stepAcc) (htick : h.clockHz ≤ k.tickAcc) :
    k.due h = some (match h.order with | .stepFirst => .instructionStep | .tickFirst => .timerStep) := by
  unfold Scheduler.due
  rw [decide_eq_true hstep, decide_eq_true htick]
  cases h.order <;> rfl

/-- Settles O55: what one advance takes; where both are due there is fuel, and the order decides. -/
theorem schedulerDrainsEveryDueStep : Obligations.SchedulerDrainsEveryDueStep := by
  rintro h now k k' ds hp hadv
  obtain ⟨hstep, htick, hseen, hsteps, hticks⟩ := Scheduler.advance_takes hp now k
  rw [hadv] at hstep htick hseen hsteps hticks
  refine ⟨hstep, htick, hseen, hsteps, hticks, fun hs ht => ?_⟩
  have hfuel : 0 < (k.observe h now).dueCount h := Nat.add_pos_left (Nat.div_pos hs hp) _
  have hhead := Scheduler.drain_head h (k.observe h now) hfuel
  rw [← Scheduler.advance, hadv, Scheduler.due_of_both hs ht] at hhead
  exact hhead

/-- Advances within MAX_SLICE of each other, up to the time `last`: none is due after them, and together they took one period for each
step they dispatched from what the whole time added. -/
theorem Scheduler.advanceAll_takes {h : HostConfig} (hp : 0 < h.clockHz) {last : Nat} : ∀ (times : List Nat) (k : Scheduler),
    TimesWithin h.maxSlice k.lastSeen times → times.getLast? = some last →
    k.lastSeen ≤ last ∧
    (Scheduler.advanceAll h times k).1.stepAcc < h.clockHz ∧ (Scheduler.advanceAll h times k).1.tickAcc < h.clockHz ∧
    (Scheduler.advanceAll h times k).1.stepAcc + h.clockHz * stepsOf .instructionStep (Scheduler.advanceAll h times k).2 =
      k.stepAcc + (last - k.lastSeen) * h.cpuHz ∧
    (Scheduler.advanceAll h times k).1.tickAcc + h.clockHz * stepsOf .timerStep (Scheduler.advanceAll h times k).2 =
      k.tickAcc + (last - k.lastSeen) * 60
  | [], k, _, hlast => by simp at hlast
  | now :: rest, k, hw, hlast => by
    obtain ⟨hle, hslice, hrest⟩ := hw
    obtain ⟨hstep, htick, hseen, hsteps, hticks⟩ := Scheduler.advance_takes hp now k
    rw [Nat.min_eq_left hslice] at hsteps hticks
    cases rest with
    | nil =>
      obtain rfl : now = last := by simpa using hlast
      simpa [Scheduler.advanceAll] using ⟨hle, hstep, htick, hsteps, hticks⟩
    | cons next later =>
      rw [← hseen] at hrest
      obtain ⟨hle', hstep', htick', hsteps', hticks'⟩ :=
        Scheduler.advanceAll_takes hp (next :: later) (k.advance h now).1 hrest (by simpa using hlast)
      rw [hseen] at hle' hsteps' hticks'
      have split (f : Nat) : (last - k.lastSeen) * f = (now - k.lastSeen) * f + (last - now) * f := by
        rw [← Nat.add_mul]
        congr 1
        omega
      rw [Scheduler.advanceAll]
      simp only [stepsOf_append, Nat.mul_add, split]
      exact ⟨by omega, hstep', htick', by omega, by omega⟩

/-- A whole number of periods and less than one more. -/
theorem periods_eq {acc p n m : Nat} (hp : 0 < p) (hlt : acc < p) (h : acc + p * n = 0 + p * m) : n = m := by
  have := congrArg (· / p) h
  simpa [Nat.add_mul_div_left, hp, Nat.div_eq_of_lt hlt] using this

/-- Settles O56: one second adds 800 periods and 60 periods to the empty accumulators, and less than one stays in each. -/
theorem oneSecondDispatches800And60 : Obligations.OneSecondDispatches800And60 := by
  intro h t0 times hp hcpu hw hlast
  obtain ⟨-, hstep, htick, hsteps, hticks⟩ := Scheduler.advanceAll_takes hp times (Scheduler.startAt t0) hw hlast
  simp only [Scheduler.startAt, Nat.add_sub_cancel_left, hcpu] at hsteps hticks hstep htick
  exact ⟨periods_eq hp hstep hsteps, periods_eq hp htick hticks⟩

/-- What a quotient of the remaining time fits in, at the frequency `f`. -/
theorem sleep_fits {p acc f d : Nat} (hacc : acc ≤ p) (hd : d ≤ (p - acc) / f) : acc + d * f ≤ p := by
  have := (Nat.mul_le_mul_right f hd).trans (Nat.div_mul_le_self (p - acc) f)
  omega

/-- One unit more than the quotient does not fit. -/
theorem sleep_passes {p acc f : Nat} (hf : 0 < f) : acc + ((p - acc) / f + 1) * f > p := by
  have := Nat.lt_mul_div_succ (p - acc) hf
  rw [Nat.mul_comm f] at this
  omega

/-- Settles O57: the sleep is the smaller of two quotients, so it fits in both, and one unit more does not fit in that one. -/
theorem sleepNeverOversleeps : Obligations.SleepNeverOversleeps := by
  intro h k hcpu hstep htick
  refine ⟨sleep_fits hstep (Nat.min_le_left _ _), sleep_fits htick (Nat.min_le_right _ _), ?_⟩
  unfold Scheduler.sleepTime
  obtain hmin | hmin := min_choice ((h.clockHz - k.stepAcc) / h.cpuHz) ((h.clockHz - k.tickAcc) / timerHz)
  · rw [hmin]
    exact .inl (sleep_passes hcpu)
  · rw [hmin]
    exact .inr (sleep_passes (f := timerHz) (by decide))

end Sys2Proof.Machine
end
